-- ==== Sys2Proof/Word.lean ====
section
/-! DEFINITION. The word types of the block (00_scope.md R7): bytes, sequences of bytes, 16-bit host registers. -/

namespace Sys2Proof

/-- R7: an unsigned integer 0..255, bit 7 the most significant. -/
abbrev Byte := BitVec 8

/-- R7: a finite sequence of bytes, indexed from 0; element 0 is first in time on a stream (R50). -/
abbrev Bytes := List Byte

/-- R36: the width of every host register. -/
abbrev HostWord := BitVec 16

end Sys2Proof
end

