-- ==== Sys2Proof/Config.lean ====
section
/-! DEFINITION. What is fixed for a block: the constants of 00_scope.md R5 and the parameters of R6. -/

namespace Sys2Proof.Config

/-- R5, R81: the control byte READY. -/
abbrev ready : Byte := 0x11#8
/-- R5, R81: the control byte DONE. -/
abbrev done : Byte := 0x13#8
/-- R5: `$`, the first byte of a frame (PRESUMED ASCII code, log 16). -/
abbrev sof : Byte := 0x24#8
/-- R5: `*`, between payload and checksum (PRESUMED ASCII code, log 16). -/
abbrev sep : Byte := 0x2A#8
/-- R5: carriage return (PRESUMED ASCII code, log 16). -/
abbrev cr : Byte := 0x0D#8
/-- R5: line feed, the byte the Line Reader cuts at (PRESUMED ASCII code, log 16). -/
abbrev lf : Byte := 0x0A#8
/-- R5: least payload length. -/
abbrev payloadMin : Nat := 1
/-- R5: greatest payload length. -/
abbrev payloadMax : Nat := 79
/-- R5: least byte ENCODE accepts in a payload. -/
abbrev printLo : Byte := 0x20#8
/-- R5: greatest byte ENCODE accepts in a payload. -/
abbrev printHi : Byte := 0x7E#8
/-- R5: least frame length. -/
abbrev frameMin : Nat := 7
/-- R5: greatest frame length. -/
abbrev frameMax : Nat := 85

/-- R6 `T_UNIT`: the length of the time unit of the read timeout; open, no rule depends on it (R240; log 22). -/
opaque tUnit : Nat

/-- R6 `RX_CHUNK_MAX`: the most bytes one TransportRead may deliver, a natural number of at least 1 by its type; otherwise
open, no result depends on it (R137; log 22). -/
opaque rxChunkMax : ℕ+

end Sys2Proof.Config

namespace Sys2Proof

/-- R6: the parameters a build fixes and whose defaults the spec gives. They stand in State as plain data that no step
changes (log 1), because csr[7] shows two of them (R36) and statements are to hold of every build. -/
structure Params where
  /-- `HEX_LOWER_OK`: DECODE accepts `a`..`f` in the checksum field (D6). -/
  hexLowerOk : Bool
  /-- `FLUSH_CLEARS_RXBUF`: the error exit empties RXBUF too (D12). -/
  flushClearsRxbuf : Bool
  /-- `RXBUF_DEPTH`: capacity of RXBUF, `none` for unbounded (D8). -/
  rxbufDepth : Option Nat
  /-- `ERRTEXT_DEPTH`: capacity of ERRTEXT, `none` for unbounded (D30). -/
  errtextDepth : Option Nat
deriving DecidableEq, Repr

/-- R6: the defaults the spec recommends. -/
def Params.default : Params :=
  ⟨false, true, none, none⟩

/-- R6: a finite depth is at least 85, so that every valid frame fits. -/
def Params.wf (p : Params) : Bool :=
  p.rxbufDepth.all (fun d => decide (Config.frameMax ≤ d)) && p.errtextDepth.all (fun d => decide (Config.frameMax ≤ d))

end Sys2Proof
end

