-- ==== Sys2Proof/Syntax.lean ====
section
/-! DEFINITION. The instructions: one constructor per row of spec/opcode_table.json (30_encoding.md R80, R81, R85, R88). -/

namespace Sys2Proof

/-- The rows of the opcode table. The first seven are the host operations of R88: their EMPTY bit is 1 exactly when the
operand is the empty sequence, so the operand itself is the field. The last four are what the block fetches from the wire. -/
inductive Instr where
  /-- ENCODE, R112: the payload. -/
  | encode (opd : Bytes)
  /-- DECODE, R114: the candidate frame. -/
  | decode (opd : Bytes)
  /-- READ_UNIT, R132: no operand. -/
  | readUnit
  /-- WRITE_UNIT, R135: the raw bytes. -/
  | writeUnit (opd : Bytes)
  /-- XCHG_ZERO, R160: the command payload. -/
  | xchgZero (opd : Bytes)
  /-- XCHG_ONE, R161: the GEN bit and the command payload. -/
  | xchgOne (gen : Bool) (opd : Bytes)
  /-- XCHG_MANY, R162: the GEN bit and the command payload. -/
  | xchgMany (gen : Bool) (opd : Bytes)
  /-- CTL_READY, R81, R132: the one-byte unit 0x11. -/
  | ctlReady
  /-- CTL_DONE, R81, R132: the one-byte unit 0x13. -/
  | ctlDone
  /-- LINE, R85, R132: a line unit, up to and including its LF. -/
  | line (l : Bytes)
  /-- FRAME, R80, R114: a frame, by the payload it carries (the checksum field is determined by it). -/
  | frame (p : Bytes)
deriving DecidableEq, Repr

/-- Where an instruction is fetched: a host operation from the operation word port (R61), a unit from the head of RXBUF
(R85), a frame from the whole of a candidate frame (R82: anchored at both ends). -/
inductive Port where
  | host
  | unit
  | frame
deriving DecidableEq, Repr

/-- The port each row of the table belongs to (the table's "format"). -/
def Instr.port : Instr → Port
  | .encode _ | .decode _ | .readUnit | .writeUnit _ | .xchgZero _ | .xchgOne _ _ | .xchgMany _ _ => .host
  | .ctlReady | .ctlDone | .line _ => .unit
  | .frame _ => .frame

/-- R130: what one ReadUnit returns. -/
inductive RxUnit where
  /-- `Ctl(0x11)`. -/
  | ready
  /-- `Ctl(0x13)`. -/
  | done
  /-- `Line(l)`. -/
  | line (l : Bytes)
deriving DecidableEq, Repr

/-- A unit as the instruction of the table it is. -/
def RxUnit.toInstr : RxUnit → Instr
  | .ready => .ctlReady
  | .done => .ctlDone
  | .line l => .line l

end Sys2Proof
end

