-- ==== Sys2Proof/Machine/State.lean ====
section
/-! DEFINITION. The state of the block (10_state.md), of what its steps keep between rows of 42_exchange.md R165, and of
the environment it is run against (00_scope.md R10, 10_state.md R34, R35); reset (R42, R220). -/

namespace Sys2Proof.Machine

/-- Why the machine stops with a fault: it never does. Every error of the spec (60_exceptions.md R190) is an outcome the
block completes with, so this type has no constructor (safe: nothing is hidden behind a fault). -/
inductive Fault where
deriving DecidableEq, Repr

/-- Why a step is given no meaning. -/
inductive Refusal where
  /-- Raised by exec for an instruction that has no meaning yet (none is left). Safe. -/
  | notModelled (mnemonic : String)
  /-- Raised by a fill whose chunk would make RXBUF exceed a finite RXBUF_DEPTH: 20_memory.md R63 and K2 give that run no
  meaning ("refuses that run"). With the default, unbounded, it cannot arise. Safe (log 18). -/
  | rxbufOverflow
deriving DecidableEq, Repr

/-- R30: the states of the sequencer, the block's program counter; the reserved codes 10..15 are never taken and have no
constructor. -/
inductive Seq where
  | idle
  | enc
  | tx
  | waitReady
  | read
  | dec
  | matchRec
  | yield
  | flush
  | exec
deriving DecidableEq, Repr

/-- R24: the call shape; code 3 is never latched and has no constructor. -/
inductive Shape where
  | zero
  | one
  | many
deriving DecidableEq, Repr

/-- R190: OK, the six error kinds, and IllegalOp. -/
inductive Kind where
  | ok
  | timeoutError
  | readError
  | writeError
  | encodeError
  | decodeError
  | protocolError
  | illegalOp
deriving DecidableEq, Repr

/-- The standalone operation that the state EXEC executes (R30). -/
inductive Standalone where
  | encode
  | decode
  | readUnit
  | writeUnit
deriving DecidableEq, Repr

/-- R180: the matcher's record, an opaque value the block never looks inside (log 6). -/
structure Rec where
  token : Nat
deriving DecidableEq, Repr

/-- R180: the matcher's verdict: `Match(rec)` or `NoMatch`. -/
inductive Verdict where
  | hit (record : Rec)
  | miss
deriving DecidableEq, Repr

/-- R181: a matcher as plain data: the verdicts on the payloads listed, the first entry for a payload counting, and one
verdict for every other payload (log 5). -/
structure Matcher where
  cases : List (Bytes × Verdict)
  other : Verdict
deriving DecidableEq, Repr

/-- R28: an item: the payload and the matcher's record, absent when GEN = 0. -/
structure Item where
  payload : Bytes
  record : Option Rec
deriving DecidableEq, Repr

/-- R8 `raise Kind(text)`: what a raise carries to the error exit. -/
structure Raise where
  kind : Kind
  text : Bytes
deriving DecidableEq, Repr

/-- R10: the answer of one TransportRead; `Data` holds at least one byte by its form (K11). -/
inductive ReadAnswer where
  | data (first : Byte) (rest : Bytes)
  | timeout
  | eos
deriving DecidableEq, Repr

/-- What the host presents at csr[0] with the operand stream and the matcher (R36, R40, R88). -/
structure Command where
  /-- The operation word. -/
  word : Byte
  /-- The bytes on the operand stream. -/
  opd : Bytes
  /-- The matcher offered with the operation; consulted only when GEN = 1. -/
  matcher : Matcher
deriving DecidableEq, Repr

/-- R35: one interaction with the environment. -/
inductive Event where
  /-- `EvWrite(bs, n)`. -/
  | write (bs : Bytes) (n : Nat)
  /-- `EvRead(answer)`. -/
  | read (answer : ReadAnswer)
  /-- `EvFlush`. -/
  | flush
  /-- `EvMatch(p, answer)`. -/
  | matched (p : Bytes) (answer : Verdict)
deriving DecidableEq, Repr

end Sys2Proof.Machine

namespace Sys2Proof.Machine

/-- The whole state. INVENTORY.md lists each field with its rule and reset value. -/
structure State where
  /-- R21 CSUM. -/
  csum : Byte
  /-- R22 LEN, 7 bits, saturating at 80. -/
  len : BitVec 7
  /-- R23 ITEMCNT. -/
  itemcnt : Nat
  /-- R24 SHAPE. -/
  shape : Shape
  /-- R24 GEN. -/
  gen : Bool
  /-- R30 SEQ. -/
  seq : Seq
  /-- R25 RXBUF, head first. -/
  rxbuf : Bytes
  /-- R26 OPD. -/
  opd : Bytes
  /-- R27 RES. -/
  res : Bytes
  /-- R28 ITEMS. -/
  items : List Item
  /-- R29 ERRTEXT. -/
  errtext : Bytes
  /-- R32 BUSY. -/
  busy : Bool
  /-- R32 DONE_F. -/
  doneF : Bool
  /-- R32 ERR. -/
  err : Bool
  /-- R32 RESULT_PRESENT. -/
  resultPresent : Bool
  /-- R32 UKIND. -/
  ukind : Bool
  /-- R33 KIND. -/
  kind : Kind
  /-- R30: the standalone operation in EXEC (log 10). -/
  sop : Standalone
  /-- R165 "keep f": the command frame (log 10). -/
  frm : Bytes
  /-- R165 "keep l": the line unit (log 10). -/
  line : Bytes
  /-- R165 "keep p": the payload given to the matcher (log 10). -/
  pay : Bytes
  /-- R165: the item for YIELD (log 10). -/
  item : Item
  /-- R165 "remember kind K and its text" (log 10). -/
  raised : Raise
  /-- R181, D24: the matcher latched with the operation (log 10). -/
  gsel : Matcher
  /-- R6: the parameters of the build; no step changes them (log 1). -/
  params : Params
  /-- The model's own: the operations the host will issue, each when the block is idle (log 8). -/
  host : List Command
  /-- The model's own, R34: the answers TransportRead gives before the next flush (log 2, 3). -/
  rx : List ReadAnswer
  /-- The model's own, R34: for each coming flush, the answers given after it (log 3). -/
  rxNext : List (List ReadAnswer)
  /-- The model's own, R10: for each coming TransportWrite, how many bytes the transport takes (log 4). -/
  tx : List Nat
  /-- The model's own, R35: the event history, oldest first. -/
  hist : List Event
deriving DecidableEq, Repr

/-- R42, R220: every field after reset, for a build with these parameters; the spec gives no value for CSUM and LEN
(log 9) and does not name the kept values (log 10). The environment's scripts are empty: nothing has answered yet. -/
def State.resetWith (params : Params) : State where
  csum := 0x00#8
  len := 0#7
  itemcnt := 0
  shape := .zero
  gen := false
  seq := .idle
  rxbuf := []
  opd := []
  res := []
  items := []
  errtext := []
  busy := false
  doneF := false
  err := false
  resultPresent := false
  ukind := false
  kind := .ok
  sop := .encode
  frm := []
  line := []
  pay := []
  item := ⟨[], none⟩
  raised := ⟨.ok, []⟩
  gsel := ⟨[], .miss⟩
  params := params
  host := []
  rx := []
  rxNext := []
  tx := []
  hist := []

/-- R42, R220: the machine right after reset, built with the default parameters of R6. -/
def State.reset : State :=
  State.resetWith Params.default

end Sys2Proof.Machine
end

