-- ==== Sys2Proof/Machine/Flags.lean ====
section
/-! DEFINITION. The codes of the state registers (10_state.md R24, R30, 60_exceptions.md R190), every flag computation
(R32, R33), and the host's view of the registers (R36). -/

namespace Sys2Proof.Machine

/-! ### Codes -/

/-- R30: the 4-bit code of a sequencer state. -/
def seqCode : Seq → BitVec 4
  | .idle => 0#4
  | .enc => 1#4
  | .tx => 2#4
  | .waitReady => 3#4
  | .read => 4#4
  | .dec => 5#4
  | .matchRec => 6#4
  | .yield => 7#4
  | .flush => 8#4
  | .exec => 9#4

/-- R24: the 2-bit code of a call shape. -/
def shapeCode : Shape → BitVec 2
  | .zero => 0#2
  | .one => 1#2
  | .many => 2#2

/-- R190: the 3-bit code of a kind. -/
def kindCode : Kind → BitVec 3
  | .ok => 0#3
  | .timeoutError => 1#3
  | .readError => 2#3
  | .writeError => 3#3
  | .encodeError => 4#3
  | .decodeError => 5#3
  | .protocolError => 6#3
  | .illegalOp => 7#3

/-! ### Flags at acceptance and completion -/

/-- R32, R33, R165 (first row): the flags and KIND when an operation is accepted. -/
def acceptFlags (s : State) : State :=
  { s with busy := true, doneF := false, err := false, resultPresent := false, ukind := false, kind := .ok }

/-- R200: the flags and KIND when an operation completes with kind `k`: an error leaves no result present. -/
def completeFlags (k : Kind) (s : State) : State :=
  { s with
    kind := k
    err := decide (k ≠ .ok)
    doneF := true
    busy := false
    resultPresent := decide (k = .ok) && s.resultPresent
    ukind := decide (k = .ok) && s.ukind }

/-- R155: RESULT_PRESENT at the success exit of an exchange. -/
def exchangeResultPresent (s : State) : Bool :=
  decide (s.shape = .one) && decide (s.itemcnt = 1)

/-! ### The host registers (R36) -/

/-- R36: a count as a host register shows it, `min(n, 0xFFFF)`. -/
def sat16 (n : Nat) : HostWord :=
  BitVec.ofNat 16 (min n 0xFFFF)

/-- R36: csr[1], STATUS. -/
def statusWord (s : State) : HostWord :=
  0#4 ++ (seqCode s.seq ++ (kindCode s.kind ++ (BitVec.ofBool s.ukind ++ (BitVec.ofBool s.resultPresent
    ++ (BitVec.ofBool s.err ++ (BitVec.ofBool s.doneF ++ BitVec.ofBool s.busy))))))

/-- R36: csr[6], MODE. -/
def modeWord (s : State) : HostWord :=
  0#13 ++ (BitVec.ofBool s.gen ++ shapeCode s.shape)

/-- R36: csr[7], PARAM. -/
def paramWord (s : State) : HostWord :=
  0#14 ++ (BitVec.ofBool s.params.flushClearsRxbuf ++ BitVec.ofBool s.params.hexLowerOk)

/-- R36: a read of csr[i]; csr[0] is write only and reads 0. A read has no side effect (R54). -/
def csrRead (s : State) (i : BitVec 3) : HostWord :=
  if i = 0#3 then 0#16
  else if i = 1#3 then statusWord s
  else if i = 2#3 then sat16 s.itemcnt
  else if i = 3#3 then sat16 s.rxbuf.length
  else if i = 4#3 then sat16 s.res.length
  else if i = 5#3 then sat16 s.errtext.length
  else if i = 6#3 then modeWord s
  else paramWord s

end Sys2Proof.Machine
end

