-- ==== Sys2Proof/WellFormed.lean ====
section
/-! DEFINITION. When an instruction is one the encoding can carry (30_encoding.md R80, R85, R88; 41_line_reader.md R133). -/

namespace Sys2Proof

/-- R133 (b): a line ends in LF. -/
def lineEndsInLf (l : Bytes) : Bool :=
  l.getLast? == some Config.lf

/-- R133 (b): no other byte of a line is LF. -/
def lineHasNoInnerLf (l : Bytes) : Bool :=
  !(l.dropLast.contains Config.lf)

/-- R133 (b): a line does not start with a control byte. -/
def lineHeadNotCtl (l : Bytes) : Bool :=
  l.head? != some Config.ready && l.head? != some Config.done

/-- R133 (b): the byte sequences that are line units. -/
def lineOk (l : Bytes) : Bool :=
  lineEndsInLf l && lineHasNoInnerLf l && lineHeadNotCtl l

/-- R80: a frame's payload has 1 to 79 bytes, of any value (R84). -/
def payloadLenOk (p : Bytes) : Bool :=
  decide (Config.payloadMin ≤ p.length) && decide (p.length ≤ Config.payloadMax)

/-- The instructions the encodings can carry. A host operation takes an operand of any length, zero included (R26). -/
def Instr.wf : Instr → Bool
  | .encode _ | .decode _ | .readUnit | .writeUnit _ | .xchgZero _ | .xchgOne _ _ | .xchgMany _ _ => true
  | .ctlReady | .ctlDone => true
  | .line l => lineOk l
  | .frame p => payloadLenOk p

end Sys2Proof
end

