-- ==== Sys2Proof/Decode.lean ====
section
/-! DEFINITION. The pure functions of 00_scope.md R9, the decoders of the three ports (30_encoding.md R80 to R89), the
encoder, and decodeTableWord. -/

namespace Sys2Proof

/-! ### Pure functions of R9 -/

/-- R9, R110: the exclusive or of all the bytes, 0x00 for none. -/
def xorfold : Bytes → Byte
  | [] => 0x00#8
  | b :: s => b ^^^ xorfold s

/-- R9: the bytes ENCODE accepts in a payload. -/
def printable (b : Byte) : Bool :=
  decide (Config.printLo ≤ b) && decide (b ≤ Config.printHi)

/-- R9: the upper-case hex digit of a nibble. -/
def hexdigit (n : BitVec 4) : Byte :=
  if n < 10#4 then 0x30#8 + n.setWidth 8 else 0x41#8 + (n - 10#4).setWidth 8

/-- R9: the digit of bits [7:4] (sent first, R50; PRESUMED order, log 16). -/
def hexhi (c : Byte) : Byte :=
  hexdigit (c.extractLsb' 4 4)

/-- R9: the digit of bits [3:0]. -/
def hexlo (c : Byte) : Byte :=
  hexdigit (c.extractLsb' 0 4)

/-- R9: the bytes read as a hex digit; `a`..`f` only with `HEX_LOWER_OK`. -/
def ishex (lower : Bool) (b : Byte) : Bool :=
  (decide (0x30#8 ≤ b) && decide (b ≤ 0x39#8)) || (decide (0x41#8 ≤ b) && decide (b ≤ 0x46#8))
    || (lower && decide (0x61#8 ≤ b) && decide (b ≤ 0x66#8))

/-- R9: the value 0..15 of a hex digit. -/
def hexval (b : Byte) : Nat :=
  if b ≤ 0x39#8 then b.toNat - 0x30 else if b ≤ 0x46#8 then b.toNat - 0x41 + 10 else b.toNat - 0x61 + 10

/-- R9: a control byte. -/
def isctl (b : Byte) : Bool :=
  b == Config.ready || b == Config.done

/-- R9 `find(s, 0x0A)` and the cut of R132 in one: the bytes up to and including the first LF, and the rest. -/
def splitLine : Bytes → Option (Bytes × Bytes)
  | [] => none
  | b :: bs =>
    if b = Config.lf then some ([b], bs)
    else match splitLine bs with
      | none => none
      | some (l, rest) => some (b :: l, rest)

/-! ### Why a decoder rejects -/

/-- The names under which the decoders reject. The first four are the reserved operation words of R89; the last three
are no operation word at all. -/
inductive Reject where
  /-- R89: `OPC` is none of the seven operations. -/
  | reservedOpc
  /-- R89: bits [6:5] are not 0. -/
  | reservedBits
  /-- R89: `GEN` = 1 with an operation other than XCHG_ONE and XCHG_MANY. -/
  | genNotAllowed
  /-- R89: READ_UNIT with `EMPTY` = 0. -/
  | operandNotAllowed
  /-- R88: `EMPTY` = 0 and no operand byte has come yet (log 12). -/
  | operandMissing
  /-- There is no byte to decode. -/
  | noBytes
  /-- R85: the bytes hold no whole unit (no control byte at the head, no LF). -/
  | incompleteUnit
  /-- R114: the bytes are not a frame by shape. -/
  | notAFrame
  /-- R114: the checksum field differs from the exclusive or of the payload. -/
  | checksumMismatch
deriving DecidableEq, Repr

/-! ### The operation word (R88, R89) -/

/-- R88: bit [7]. -/
def opEmpty (w : Byte) : Bool := w.getLsbD 7

/-- R88: bits [6:5], reserved. -/
def opReserved (w : Byte) : BitVec 2 := w.extractLsb' 5 2

/-- R88: bit [4]. -/
def opGen (w : Byte) : Bool := w.getLsbD 4

/-- R88: bits [3:0]. -/
def opOpc (w : Byte) : BitVec 4 := w.extractLsb' 0 4

/-- R88: the operand `OPD`: empty when EMPTY is 1 (no operand byte is taken, log 12), else the bytes of the operand
stream, at least one. -/
def operandOf (w : Byte) (opd : Bytes) : Except Reject Bytes :=
  if opEmpty w then .ok []
  else match opd with
    | [] => .error .operandMissing
    | b :: bs => .ok (b :: bs)

/-- An operation that takes an operand and no GEN bit. -/
def plainOp (w : Byte) (opd : Bytes) (mk : Bytes → Instr) : Except Reject Instr :=
  if opGen w then .error .genNotAllowed
  else match operandOf w opd with
    | .ok p => .ok (mk p)
    | .error e => .error e

/-- An operation that takes an operand and the GEN bit. -/
def genOp (w : Byte) (opd : Bytes) (mk : Bool → Bytes → Instr) : Except Reject Instr :=
  match operandOf w opd with
  | .ok p => .ok (mk (opGen w) p)
  | .error e => .error e

/-- READ_UNIT: no GEN bit, and EMPTY must be 1. -/
def readOp (w : Byte) : Except Reject Instr :=
  if opGen w then .error .genNotAllowed
  else if opEmpty w then .ok .readUnit
  else .error .operandNotAllowed

/-- R88: the operation an operation word and its operand stream ask for; every reserved word of R89 rejected by name. -/
def decodeOp (w : Byte) (opd : Bytes) : Except Reject Instr :=
  if opReserved w ≠ 0#2 then .error .reservedBits
  else if opOpc w = 0x1#4 then plainOp w opd .encode
  else if opOpc w = 0x2#4 then plainOp w opd .decode
  else if opOpc w = 0x3#4 then readOp w
  else if opOpc w = 0x4#4 then plainOp w opd .writeUnit
  else if opOpc w = 0x8#4 then plainOp w opd .xchgZero
  else if opOpc w = 0x9#4 then genOp w opd .xchgOne
  else if opOpc w = 0xA#4 then genOp w opd .xchgMany
  else .error .reservedOpc

/-- The rejections that are R89's reserved words (the others say that an operand is still awaited or that no
operation word was looked at). -/
def Reject.isReserved : Reject → Bool
  | .reservedOpc | .reservedBits | .genNotAllowed | .operandNotAllowed => true
  | .operandMissing | .noBytes | .incompleteUnit | .notAFrame | .checksumMismatch => false

/-! ### The unit cutter (R85, R132) -/

/-- R132: the unit at the head of a byte sequence and what follows it: a control byte when it is the first byte, else
everything up to and including the first LF; none while no unit is whole. -/
def cutUnit : Bytes → Option (RxUnit × Bytes)
  | [] => none
  | b :: bs =>
    if b = Config.ready then some (.ready, bs)
    else if b = Config.done then some (.done, bs)
    else match splitLine (b :: bs) with
      | none => none
      | some (l, rest) => some (.line l, rest)

/-- R130: a unit as bytes. -/
def RxUnit.bytes : RxUnit → Bytes
  | .ready => [Config.ready]
  | .done => [Config.done]
  | .line l => l

/-- R27, R130: whether a unit is a line unit. -/
def RxUnit.isLine : RxUnit → Bool
  | .ready => false
  | .done => false
  | .line _ => true

/-! ### The frame codec (R80, R83, R112, R114) -/

/-- R80, R112: the frame that carries a payload. -/
def frameOf (p : Bytes) : Bytes :=
  Config.sof :: (p ++ [Config.sep, hexhi (xorfold p), hexlo (xorfold p), Config.cr, Config.lf])

/-- R112 `Encode`: the frame of a payload of 1 to 79 printable bytes; `none` where it raises EncodeError. -/
def encodePayload (p : Bytes) : Option Bytes :=
  if p.length = 0 then none
  else if p.length > Config.payloadMax then none
  else if p.any (fun b => !printable b) then none
  else some (frameOf p)

/-- R114, the tests of shape: the payload captured by a byte sequence of the frame layout, anchored at both ends. -/
def frameShape (lower : Bool) (f : Bytes) : Option Bytes :=
  let L := f.length
  if L < Config.frameMin ∨ L > Config.frameMax then none
  else if f.getD 0 0x00#8 ≠ Config.sof then none
  else if f.getD (L - 5) 0x00#8 ≠ Config.sep then none
  else if !ishex lower (f.getD (L - 4) 0x00#8) then none
  else if !ishex lower (f.getD (L - 3) 0x00#8) then none
  else if f.getD (L - 2) 0x00#8 ≠ Config.cr then none
  else if f.getD (L - 1) 0x00#8 ≠ Config.lf then none
  else some ((f.drop 1).take (L - 6))

/-- R83: the value of the checksum field of a byte sequence of the frame layout. -/
def checksumField (f : Bytes) : Nat :=
  16 * hexval (f.getD (f.length - 4) 0x00#8) + hexval (f.getD (f.length - 3) 0x00#8)

/-- R114 `Decode`: the payload, or why it raises DecodeError (one kind for both reasons). -/
def decodeFrame (lower : Bool) (f : Bytes) : Except Reject Bytes :=
  match frameShape lower f with
  | none => .error .notAFrame
  | some p => if (xorfold p).toNat = checksumField f then .ok p else .error .checksumMismatch

/-! ### The decoder and the encoder -/

/-- The instruction at the head of a byte sequence at a port, and the bytes after it; total, rejecting by name. At the
host port the bytes are the operation word and then its operand stream; a frame is the whole of its bytes. -/
def decode (port : Port) (lower : Bool) (bs : Bytes) : Except Reject (Instr × Bytes) :=
  match port with
  | .host =>
    match bs with
    | [] => .error .noBytes
    | w :: opd =>
      match decodeOp w opd with
      | .ok i => .ok (i, [])
      | .error e => .error e
  | .unit =>
    match bs with
    | [] => .error .noBytes
    | b :: bs' =>
      match cutUnit (b :: bs') with
      | none => .error .incompleteUnit
      | some (u, rest) => .ok (u.toInstr, rest)
  | .frame =>
    match decodeFrame lower bs with
    | .ok p => .ok (.frame p, [])
    | .error e => .error e

/-- R88: an operation word from its fields. -/
def opWord (empty gen : Bool) (opc : BitVec 4) : Byte :=
  BitVec.ofBool empty ++ (0#2 ++ (BitVec.ofBool gen ++ opc))

/-- R88: the word of an operation with this operand, then the operand. -/
def opBytes (gen : Bool) (opc : BitVec 4) (opd : Bytes) : Bytes :=
  opWord opd.isEmpty gen opc :: opd

/-- The bytes of an instruction at its port, from the encodings of R80, R81 and R88. -/
def encode : Instr → Bytes
  | .encode opd => opBytes false 0x1#4 opd
  | .decode opd => opBytes false 0x2#4 opd
  | .readUnit => opBytes false 0x3#4 []
  | .writeUnit opd => opBytes false 0x4#4 opd
  | .xchgZero opd => opBytes false 0x8#4 opd
  | .xchgOne gen opd => opBytes gen 0x9#4 opd
  | .xchgMany gen opd => opBytes gen 0xA#4 opd
  | .ctlReady => [Config.ready]
  | .ctlDone => [Config.done]
  | .line l => l
  | .frame p => frameOf p

/-! ### A row of the table by number -/

/-- The bytes of a number, the least significant byte first (the first byte is the first on the stream). -/
def bytesOfNat : Nat → Nat → Bytes
  | 0, _ => []
  | n + 1, w => BitVec.ofNat 8 w :: bytesOfNat n (w / 256)

/-- The bytes a table word stands for at the host port: an operation word whose operand bits the table does not give is
followed by an operand of zeros, of the least length R88 allows (one byte) (log 15). -/
def hostBytes : Bytes → Bytes
  | [w] => if opEmpty w then [w] else [w, 0x00#8]
  | bs => bs

/-- The instruction a byte sequence is, tried as an operation word, then as a frame, then as a unit that is exactly
these bytes (log 15). -/
def decodeAny (bs : Bytes) : Option (Port × Instr) :=
  match decode .host false (hostBytes bs) with
  | .ok (i, _) => some (.host, i)
  | .error _ =>
    match decode .frame false bs with
    | .ok (i, _) => some (.frame, i)
    | .error _ =>
      match decode .unit false bs with
      | .ok (i, []) => some (.unit, i)
      | .ok (_, _ :: _) => none
      | .error _ => none

/-- The instruction the decoder reads from a table word of `nbits` bits, the first byte its least significant. -/
def decodeTableWord (nbits w : Nat) : Option Instr :=
  match decodeAny (bytesOfNat ((nbits + 7) / 8) w) with
  | some (_, i) => some i
  | none => none

end Sys2Proof
end

