-- ==== Sys2Proof/Machine/Operands.lean ====
section
/-! DEFINITION. The operands of the operations: the buffers as address spaces (10_state.md R31, 00_scope.md R8), the
command the host presents (R26, R36, R61), the matcher as an operand (43_record_matcher.md R181), and the capacities. -/

namespace Sys2Proof.Machine

/-! ### Buffers as address spaces -/

/-- R31: the byte buffers that have positions. -/
inductive Space where
  | rxbuf
  | opd
  | res
  | errtext
deriving DecidableEq, Repr

/-- R31: the whole contents of a buffer. -/
def spaceBytes (s : State) : Space → Bytes
  | .rxbuf => s.rxbuf
  | .opd => s.opd
  | .res => s.res
  | .errtext => s.errtext

/-- R31: the byte at a position counted from the head; none past the end. -/
def State.byteAt (s : State) (sp : Space) (addr : Nat) : Option Byte :=
  (spaceBytes s sp)[addr]?

/-- R8 `MemRead(space, addr, n)`: the bytes of a buffer from a position. -/
def memRead (s : State) (sp : Space) (addr n : Nat) : Bytes :=
  ((spaceBytes s sp).drop addr).take n

/-! ### The command the host presents -/

/-- R61: the command next in line is taken; every host operation takes its own. -/
def dropCommand (s : State) : State :=
  { s with host := s.host.tail }

/-- R181: the matcher presented with the command next in line (the one already latched when there is none). -/
def presentedMatcher (s : State) : Matcher :=
  match s.host with
  | [] => s.gsel
  | c :: _ => c.matcher

/-- R88: what a command asks for. -/
def decodeCommand (c : Command) : Except Reject Instr :=
  decodeOp c.word c.opd

/-! ### The matcher -/

/-- The verdict listed for a payload, if one is. -/
def lookupVerdict (p : Bytes) : List (Bytes × Verdict) → Option Verdict
  | [] => none
  | (q, v) :: rest => if q = p then some v else lookupVerdict p rest

/-- R180, R181 `G(p)`: the matcher's verdict, a total function of the payload alone. -/
def verdictOf (g : Matcher) (p : Bytes) : Verdict :=
  match lookupVerdict p g.cases with
  | some v => v
  | none => g.other

/-! ### Capacities -/

/-- R29: the text that fits ERRTEXT, its first `ERRTEXT_DEPTH` bytes. -/
def cutErrtext (params : Params) (t : Bytes) : Bytes :=
  match params.errtextDepth with
  | none => t
  | some d => t.take d

/-- R63: whether RXBUF may hold this many bytes. -/
def rxbufFits (params : Params) (n : Nat) : Bool :=
  match params.rxbufDepth with
  | none => true
  | some d => decide (n ≤ d)

/-- R22: LEN counts payload bytes and stops at 80. -/
def lenCount (n : Nat) : BitVec 7 :=
  BitVec.ofNat 7 (min n 80)

end Sys2Proof.Machine
end

