-- ==== Sys2Proof/Machine/Ops.lean ====
section
/-! DEFINITION. The named operations over the buffers and the streams (20_memory.md, 41_line_reader.md R131, R132), the
environment primitives (00_scope.md R10), acceptance (42_exchange.md R165), completion, raising an error and the error
exit (60_exceptions.md R200, R203), and the host's interface (10_state.md R36, R40, 70_reset_and_hazards.md R221). -/

namespace Sys2Proof.Machine

/-- The outcome of a step of this machine. -/
abbrev Result := Host.Outcome State Fault Refusal

/-! ### RXBUF and the event history -/

/-- R132: the first `n` bytes leave RXBUF. -/
def dropRx (n : Nat) (s : State) : State :=
  { s with rxbuf := s.rxbuf.drop n }

/-- R131: bytes enter RXBUF at the tail. -/
def pushRx (bs : Bytes) (s : State) : State :=
  { s with rxbuf := s.rxbuf ++ bs }

/-- R35: one more interaction at the end of the history. -/
def record (e : Event) (s : State) : State :=
  { s with hist := s.hist ++ [e] }

/-! ### Completion, raise, error exit -/

/-- R200 `complete(k)`, with the text of the raise: the last step of every operation. -/
def complete (k : Kind) (text : Bytes) (s : State) : State :=
  { completeFlags k s with
    seq := .idle
    res := if k = .ok then s.res else []
    items := if k = .ok then s.items else []
    errtext := if k = .ok then [] else cutErrtext s.params text }

/-- R165 "raise K": an exchange remembers the kind and the text and goes to FLUSH. -/
def raise (k : Kind) (text : Bytes) (s : State) : State :=
  { s with raised := ⟨k, text⟩, seq := .flush }

/-- R10, R59 `TransportFlush()`: the transport discards its unread input; what it answers afterwards is the next segment
of the script (log 3). -/
def transportFlush (s : State) : State :=
  record .flush { s with rx := s.rxNext.headD [], rxNext := s.rxNext.tail }

/-- R203 `ErrorExit(e)`: taking an error inside an exchange: flush the transport, empty RXBUF when FLUSH_CLEARS_RXBUF,
empty ITEMS, keep ITEMCNT, record the text, complete with the kind. It cannot raise (R206); there is no return from it
but the next operation. -/
def errorExit (e : Raise) (s : State) : State :=
  let t := transportFlush s
  complete e.kind e.text { t with rxbuf := if t.params.flushClearsRxbuf then [] else t.rxbuf, items := [] }

/-- R89, R199: a reserved operation word completes at once with IllegalOp; the word is taken and nothing else of the
state changes. -/
def illegalOp (s : State) : State :=
  complete .illegalOp [] (dropCommand s)

/-! ### Acceptance -/

/-- R165 (first row), R206: an operation is accepted: the operand is latched, the outcome of the operation before is
cleared. -/
def accept (opd : Bytes) (s : State) : State :=
  { acceptFlags (dropCommand s) with res := [], items := [], errtext := [], itemcnt := 0, opd := opd }

/-- Acceptance of a standalone operation: the single state EXEC (R30). -/
def acceptStandalone (op : Standalone) (opd : Bytes) (s : State) : State :=
  { accept opd s with seq := .exec, sop := op }

/-- Acceptance of an exchange operation: SHAPE, GEN and, when GEN = 1, the matcher are latched too (R24, R181). -/
def acceptExchange (shape : Shape) (gen : Bool) (opd : Bytes) (s : State) : State :=
  { accept opd s with shape := shape, gen := gen, gsel := if gen then presentedMatcher s else s.gsel, seq := .enc }

/-- R61, R165 (first row): acceptance of the operation a command asks for, and no more; a wire row is no operation. -/
def acceptOperation (i : Instr) (s : State) : State :=
  match i with
  | .encode opd => acceptStandalone .encode opd s
  | .decode opd => acceptStandalone .decode opd s
  | .readUnit => acceptStandalone .readUnit [] s
  | .writeUnit opd => acceptStandalone .writeUnit opd s
  | .xchgZero opd => acceptExchange .zero false opd s
  | .xchgOne gen opd => acceptExchange .one gen opd s
  | .xchgMany gen opd => acceptExchange .many gen opd s
  | .ctlReady | .ctlDone | .line _ | .frame _ => s

/-- R112, R114, R132: a standalone operation that has a result in RES completes without error. -/
def deliver (r : Bytes) (isLine : Bool) (s : State) : State :=
  complete .ok [] { s with res := r, ukind := isLine, resultPresent := true }

/-! ### The transport -/

/-- What one FILL comes to. -/
inductive FillResult where
  /-- The chunk is in RXBUF. -/
  | filled (t : State)
  /-- R131: Timeout or Eos, RXBUF unchanged. -/
  | failed (k : Kind) (t : State)
  /-- R63: the chunk does not fit a finite RXBUF_DEPTH. -/
  | overflow
deriving DecidableEq, Repr

/-- R131 `Fill`: one TransportRead with this answer. -/
def fill (a : ReadAnswer) (s : State) : FillResult :=
  match a with
  | .data b bs =>
    if rxbufFits s.params (s.rxbuf.length + (bs.length + 1)) then .filled (pushRx (b :: bs) (record (.read a) s))
    else .overflow
  | .timeout => .failed .timeoutError (record (.read a) s)
  | .eos => .failed .readError (record (.read a) s)

/-- What looking for the next unit comes to. -/
inductive FetchResult where
  /-- The unit stands whole at the head of RXBUF (it is removed by the unit's own meaning). -/
  | found (u : RxUnit) (t : State)
  /-- R134: a FILL raised. -/
  | failed (k : Kind) (t : State)
  /-- The transport has not answered yet: the block is blocked on its read (R211, log 2). -/
  | waiting (t : State)
  /-- R63. -/
  | overflow
deriving DecidableEq, Repr

/-- R132 `ReadUnit`, up to the removal of the unit: FILL while RXBUF holds no whole unit, taking the answers in order.
Testing the head for a control byte at every turn is R132's single test: FILL appends at the tail only. -/
def fetchUnit : List ReadAnswer → State → FetchResult
  | [], s =>
    match cutUnit s.rxbuf with
    | some (u, _) => .found u { s with rx := [] }
    | none => .waiting { s with rx := [] }
  | a :: rx, s =>
    match cutUnit s.rxbuf with
    | some (u, _) => .found u { s with rx := a :: rx }
    | none =>
      match fill a s with
      | .filled t => fetchUnit rx t
      | .failed k t => .failed k { t with rx := rx }
      | .overflow => .overflow

/-- R10, R135 `TransportWrite(bs)`: how many bytes the transport accepts, at most `|bs|` (log 4); none while it has not
answered. -/
def transportWrite (bs : Bytes) (s : State) : Option (Nat × State) :=
  match s.tx with
  | [] => none
  | k :: rest => some (min k bs.length, record (.write bs (min k bs.length)) { s with tx := rest })

/-- R158, R180: one matcher call on the payload kept, recorded in the history. -/
def askMatcher (s : State) : Verdict × State :=
  (verdictOf s.gsel s.pay, record (.matched s.pay (verdictOf s.gsel s.pay)) s)

/-! ### The history as streams (R35) -/

/-- R35: the bytes an interaction sends to the device. -/
def eventSent : Event → Bytes
  | .write bs n => bs.take n
  | .read _ => []
  | .flush => []
  | .matched _ _ => []

/-- R35: the bytes an interaction brings in. -/
def eventTaken : Event → Bytes
  | .write _ _ => []
  | .read (.data b bs) => b :: bs
  | .read .timeout => []
  | .read .eos => []
  | .flush => []
  | .matched _ _ => []

/-- R35: the TX stream, every byte the device has been sent. -/
def txStream (h : List Event) : Bytes :=
  h.flatMap eventSent

/-- R35: the part of the RX stream the block has taken in. -/
def rxTaken (h : List Event) : Bytes :=
  h.flatMap eventTaken

/-! ### The host's interface -/

/-- R36: the host presents a word with its operand and matcher to an idle block: the operation starts at once, which is
its acceptance (its rows run in the steps that follow), and a reserved word completes at once (R89). With EMPTY = 0 and no
operand byte there is no whole command yet and nothing changes (DESIGN CHOICE, log 12). -/
def startCommand (c : Command) (s : State) : State :=
  match decodeCommand c with
  | .ok i => acceptOperation i { s with host := c :: s.host }
  | .error e => if e.isReserved then illegalOp { s with host := c :: s.host } else s

/-- R36, R209: the host writes csr[i]. Only csr[0] can be written: while BUSY = 0 the write starts the operation of the word
in bits [7:0] (bits [15:8] ignored, log 13) with the operand and the matcher presented beside it, so that a second write
finds BUSY = 1; every other write is ignored. -/
def csrWrite (s : State) (i : BitVec 3) (v : HostWord) (opd : Bytes) (g : Matcher) : State :=
  if i = 0#3 then
    if s.busy then s else startCommand ⟨v.setWidth 8, opd, g⟩ s
  else s

/-- R40: what the host takes from the result stream, one byte sequence for each transfer ended by `res_last`. R40 gives
`res_sel` the values 0, 1 and 2; that 3 selects nothing (no transfer), and that an empty RES or ERRTEXT is shown as one
empty sequence, is the model's (DESIGN CHOICE, log 27). -/
def resultStream (s : State) (sel : BitVec 2) : List Bytes :=
  if sel = 0#2 then [s.res]
  else if sel = 1#2 then s.items.map Item.payload
  else if sel = 2#2 then [s.errtext]
  else []

/-- R220, R221: reset at any moment: the block at its reset values, no environment primitive called, the transport and
the host as they are (log 17). -/
def State.applyReset (s : State) : State :=
  { State.resetWith s.params with host := s.host, rx := s.rx, rxNext := s.rxNext, tx := s.tx }

end Sys2Proof.Machine
end

