-- ==== Sys2Proof/Machine/Codec.lean ====
section
/-! DEFINITION. The Frame Codec (40_frame_codec.md): the operations ENCODE and DECODE, the steps ENC and DEC of an
exchange (42_exchange.md R153, R157), and the meaning of the wire row FRAME. -/

namespace Sys2Proof.Machine

/-- R112: the scratch registers after `Encode(p)`: LEN is written first; CSUM only when no test raises. -/
def encodeScratch (p : Bytes) (s : State) : State :=
  { s with len := lenCount p.length, csum := if (encodePayload p).isSome then xorfold p else s.csum }

/-- R114: the scratch registers after `Decode(f)`: written when the shape holds, whether or not the checksum agrees. -/
def decodeScratch (f : Bytes) (s : State) : State :=
  match frameShape s.params.hexLowerOk f with
  | none => s
  | some p => { s with len := lenCount p.length, csum := xorfold p }

/-- R112: the operation ENCODE in the state EXEC. -/
def runEncode (s : State) : State :=
  match encodePayload s.opd with
  | some f => deliver f false (encodeScratch s.opd s)
  | none => complete .encodeError s.opd (encodeScratch s.opd s)

/-- R114: the operation DECODE in the state EXEC. -/
def runDecode (s : State) : State :=
  match decodeFrame s.params.hexLowerOk s.opd with
  | .ok p => deliver p false (decodeScratch s.opd s)
  | .error _ => complete .decodeError s.opd (decodeScratch s.opd s)

/-- ENCODE (R112). While BUSY = 1 the word is ignored (R209). -/
def execEncode (opd : Bytes) (s : State) : Result :=
  if s.busy then .next (dropCommand s) else .next (runEncode (acceptStandalone .encode opd s))

/-- DECODE (R114). While BUSY = 1 the word is ignored (R209). -/
def execDecode (opd : Bytes) (s : State) : Result :=
  if s.busy then .next (dropCommand s) else .next (runDecode (acceptStandalone .decode opd s))

/-- R153, R165: the row ENC: the command frame is built, or EncodeError raised with the command as text. -/
def encRow (s : State) : State :=
  match encodePayload s.opd with
  | some f => { encodeScratch s.opd s with frm := f, seq := .tx }
  | none => raise .encodeError s.opd (encodeScratch s.opd s)

/-- FRAME (R114, R157, R158, R165): in DEC the line kept is a frame that carries this payload: the payload goes to the
matcher when GEN = 1, else straight to the call shape with no record. Nowhere else is a frame awaited (log 14). -/
def execFrame (p : Bytes) (s : State) : Result :=
  match s.seq with
  | .dec =>
    let t := { s with len := lenCount p.length, csum := xorfold p, pay := p }
    if s.gen then .next { t with seq := .matchRec }
    else .next { t with item := ⟨p, none⟩, seq := .yield }
  | .idle | .enc | .tx | .waitReady | .read | .matchRec | .yield | .flush | .exec => .next s

/-- R157, R165: the row DEC: the line kept is a frame, or DecodeError is raised with the whole line as text. -/
def decRow (s : State) : Result :=
  match decodeFrame s.params.hexLowerOk s.line with
  | .ok p => execFrame p s
  | .error _ => .next (raise .decodeError s.line (decodeScratch s.line s))

end Sys2Proof.Machine
end

