-- ==== Sys2Proof/Machine/LineReader.lean ====
section
/-! DEFINITION. The Line Reader (41_line_reader.md): the operations READ_UNIT and WRITE_UNIT, the step that reads a unit,
and the meanings of the wire rows CTL_READY, CTL_DONE and LINE (R132; 42_exchange.md R154 to R157). -/

namespace Sys2Proof.Machine

/-- CTL_READY (R81, R132, R154, R156): the byte leaves RXBUF; READ_UNIT returns it; in WAIT_READY it starts the answer;
in READ it is a ProtocolError. Where no unit is being read nothing happens (R44; log 14). -/
def execCtlReady (s : State) : Result :=
  let t := dropRx 1 s
  match s.seq with
  | .exec => if s.sop = .readUnit then .next (deliver [Config.ready] false t) else .next s
  | .waitReady => .next { t with seq := .read }
  | .read => .next (raise .protocolError [Config.ready] t)
  | .idle | .enc | .tx | .dec | .matchRec | .yield | .flush => .next s

/-- CTL_DONE (R81, R132, R154, R155): the byte leaves RXBUF; READ_UNIT returns it; in WAIT_READY it is a ProtocolError;
in READ it ends the exchange without error and without a flush (R164). -/
def execCtlDone (s : State) : Result :=
  let t := dropRx 1 s
  match s.seq with
  | .exec => if s.sop = .readUnit then .next (deliver [Config.done] false t) else .next s
  | .waitReady => .next (raise .protocolError [Config.done] t)
  | .read => .next (complete .ok [] { t with resultPresent := exchangeResultPresent s })
  | .idle | .enc | .tx | .dec | .matchRec | .yield | .flush => .next s

/-- LINE (R85, R132, R154, R155): the line leaves RXBUF; READ_UNIT returns it with UKIND = 1; in WAIT_READY it is a
ProtocolError, undecoded; in READ it is kept and goes to DEC. -/
def execLine (l : Bytes) (s : State) : Result :=
  let t := dropRx l.length s
  match s.seq with
  | .exec => if s.sop = .readUnit then .next (deliver l true t) else .next s
  | .waitReady => .next (raise .protocolError l t)
  | .read => .next { t with line := l, seq := .dec }
  | .idle | .enc | .tx | .dec | .matchRec | .yield | .flush => .next s

/-- The meaning of the unit at the head of RXBUF. -/
def unitMeaning (u : RxUnit) (s : State) : Result :=
  match u with
  | .ready => execCtlReady s
  | .done => execCtlDone s
  | .line l => execLine l s

/-- R134, R165: a FILL raised while a unit was being read: a standalone READ_UNIT completes with the kind, with no flush
(R204); an exchange goes to its error exit. The text is empty (R192). -/
def readFailed (k : Kind) (s : State) : State :=
  match s.seq with
  | .exec => complete k [] s
  | .idle | .enc | .tx | .waitReady | .read | .dec | .matchRec | .yield | .flush => raise k [] s

/-- R132, R165: one ReadUnit: the unit found acts by its own meaning. -/
def readRow (s : State) : Result :=
  match fetchUnit s.rx s with
  | .found u t => unitMeaning u t
  | .failed k t => .next (readFailed k t)
  | .waiting t => .next t
  | .overflow => .refused .rxbufOverflow

/-- R135: the operation WRITE_UNIT in the state EXEC: one TransportWrite of the whole operand; a short count is
WriteError. -/
def writeRow (s : State) : State :=
  match transportWrite s.opd s with
  | none => s
  | some (n, t) => if n = s.opd.length then complete .ok [] t else complete .writeError [] t

/-- R153, R165: the row TX: one TransportWrite of the whole command frame; a short count raises WriteError. -/
def txRow (s : State) : State :=
  match transportWrite s.frm s with
  | none => s
  | some (n, t) => if n = s.frm.length then { t with seq := .waitReady } else raise .writeError [] t

/-- READ_UNIT (R132). While BUSY = 1 the word is ignored (R209). -/
def execReadUnit (s : State) : Result :=
  if s.busy then .next (dropCommand s) else readRow (acceptStandalone .readUnit [] s)

/-- WRITE_UNIT (R135). While BUSY = 1 the word is ignored (R209). -/
def execWriteUnit (opd : Bytes) (s : State) : Result :=
  if s.busy then .next (dropCommand s) else .next (writeRow (acceptStandalone .writeUnit opd s))

end Sys2Proof.Machine
end

