-- ==== Sys2Proof/Machine/Exchange.lean ====
section
/-! DEFINITION. The Exchange Engine (42_exchange.md): the rows of the sequencer (R165), the procedure Drain (R152) as
their repetition, and the operations XCHG_ZERO, XCHG_ONE, XCHG_MANY. -/

namespace Sys2Proof.Machine

/-- R158, R165: the row MATCH: one matcher call; NoMatch is a ProtocolError carrying the line. -/
def matchRow (s : State) : State :=
  match askMatcher s with
  | (.hit r, t) => { t with item := ⟨s.pay, some r⟩, seq := .yield }
  | (.miss, t) => raise .protocolError s.line t

/-- R159 to R162, R165: the row YIELD: the call shape's rule for one item. -/
def yieldRow (s : State) : State :=
  match s.shape with
  | .zero => raise .protocolError s.line s
  | .one =>
    if s.itemcnt = 1 then raise .protocolError s.line s
    else { s with items := [s.item], itemcnt := 1, seq := .read }
  | .many => { s with items := s.items ++ [s.item], itemcnt := s.itemcnt + 1, seq := .read }

/-- R30: the state EXEC: the standalone operation in progress. -/
def execRow (s : State) : Result :=
  match s.sop with
  | .encode => .next (runEncode s)
  | .decode => .next (runDecode s)
  | .readUnit => readRow s
  | .writeUnit => .next (writeRow s)

/-- R165 and R30: one row of the sequencer, by the state it is in. -/
def seqRow (s : State) : Result :=
  match s.seq with
  | .idle => .next s
  | .enc => .next (encRow s)
  | .tx => .next (txRow s)
  | .waitReady => readRow s
  | .read => readRow s
  | .dec => decRow s
  | .matchRec => .next (matchRow s)
  | .yield => .next (yieldRow s)
  | .flush => .next (errorExit s.raised s)
  | .exec => execRow s

/-- Whether the block is blocked on the environment: it has asked for a read or a write and no answer is there (R211). -/
def waits (s : State) : Bool :=
  match s.seq with
  | .tx => s.tx.isEmpty
  | .waitReady | .read => s.rx.isEmpty && (cutUnit s.rxbuf).isNone
  | .exec =>
    match s.sop with
    | .readUnit => s.rx.isEmpty && (cutUnit s.rxbuf).isNone
    | .writeUnit => s.tx.isEmpty
    | .encode | .decode => false
  | .idle | .enc | .dec | .matchRec | .yield | .flush => false

/-- R152 `Drain`, as far as the environment has answered: rows of R165 until the operation is complete or the block is
blocked on the environment; at most `n` rows. -/
def drive : Nat → State → Result
  | 0, s => .next s
  | n + 1, s =>
    if s.seq = .idle ∨ waits s then .next s
    else
      match seqRow s with
      | .next t => drive n t
      | .fault f => .fault f
      | .refused r => .refused r

/-- How many bytes the answers of the transport bring. -/
def answerBytes : List ReadAnswer → Nat
  | [] => 0
  | .data _ bs :: rx => bs.length + 1 + answerBytes rx
  | .timeout :: rx => answerBytes rx
  | .eos :: rx => answerBytes rx

/-- A number of rows that is never too small for one exchange: every unit takes at least one byte and at most four rows
(READ, DEC, MATCH, YIELD), and the rest of an exchange at most eight (log 26). -/
def rowBound (s : State) : Nat :=
  4 * (s.rxbuf.length + answerBytes s.rx) + 8

/-- An exchange operation (R152): accepted, then Drain. While BUSY = 1 the word is ignored (R209). -/
def exchange (shape : Shape) (gen : Bool) (opd : Bytes) (s : State) : Result :=
  if s.busy then .next (dropCommand s)
  else drive (rowBound s) (acceptExchange shape gen opd s)

/-- XCHG_ZERO (R160): Drain with SHAPE = ZERO and no matcher. -/
def execXchgZero (opd : Bytes) (s : State) : Result :=
  exchange .zero false opd s

/-- XCHG_ONE (R161): Drain with SHAPE = ONE. -/
def execXchgOne (gen : Bool) (opd : Bytes) (s : State) : Result :=
  exchange .one gen opd s

/-- XCHG_MANY (R162): Drain with SHAPE = MANY. -/
def execXchgMany (gen : Bool) (opd : Bytes) (s : State) : Result :=
  exchange .many gen opd s

end Sys2Proof.Machine
end

