-- ==== Sys2Proof/Machine/Dispatch.lean ====
section
/-! DEFINITION. exec: one arm per row of the opcode table. -/

namespace Sys2Proof.Machine

def exec (i : Instr) (s : State) : Host.Outcome State Fault Refusal :=
  match i with
  | .encode opd => Sys2Proof.Machine.execEncode opd s
  | .decode opd => Sys2Proof.Machine.execDecode opd s
  | .readUnit => Sys2Proof.Machine.execReadUnit s
  | .writeUnit opd => Sys2Proof.Machine.execWriteUnit opd s
  | .xchgZero opd => Sys2Proof.Machine.execXchgZero opd s
  | .xchgOne gen opd => Sys2Proof.Machine.execXchgOne gen opd s
  | .xchgMany gen opd => Sys2Proof.Machine.execXchgMany gen opd s
  | .ctlReady => Sys2Proof.Machine.execCtlReady s
  | .ctlDone => Sys2Proof.Machine.execCtlDone s
  | .line l => Sys2Proof.Machine.execLine l s
  | .frame p => Sys2Proof.Machine.execFrame p s

end Sys2Proof.Machine
end

