-- ==== Sys2Proof/Machine/Step.lean ====
section
/-! DEFINITION. One step: fetch at the port the block is listening to, decode, exec; and withFetchWord. -/

namespace Sys2Proof.Machine

/-- R61, R89: the block is idle: the command next in line is decoded and run; a reserved word completes with IllegalOp;
with no command, or an operand still to come, nothing happens (R44; log 8, 12). -/
def idleStep (s : State) : Host.Outcome State Fault Refusal :=
  match s.host with
  | [] => .next s
  | c :: _ =>
    match decodeCommand c with
    | .ok i => exec i s
    | .error e => if e.isReserved then .next (illegalOp s) else .next s

/-- One step (R30, R165): while an operation is in progress the row SEQ names, else the host's next operation. A row that
reads a unit or decodes a frame runs exec of what it finds (CTL_READY, CTL_DONE, LINE, FRAME). -/
def step (s : State) : Host.Outcome State Fault Refusal :=
  if s.busy then seqRow s else idleStep s

/-- Whether the state is one in which the block fetches a unit. -/
def State.readsUnit (s : State) : Bool :=
  s.busy && (decide (s.seq = .waitReady) || decide (s.seq = .read) || (decide (s.seq = .exec) && decide (s.sop = .readUnit)))

/-- The state with the instruction of a table word where step fetches it: an operation word as the command next in line
of an idle block; a unit at the head of RXBUF of a block that reads one (in WAIT_READY, unless it reads one already); a
frame as the line kept in DEC (log 15). -/
def State.withFetchWord (s : State) (nbits w : Nat) : State :=
  let bs := bytesOfNat ((nbits + 7) / 8) w
  match decodeAny bs with
  | some (.unit, _) =>
    if s.readsUnit then { s with rxbuf := bs ++ s.rxbuf }
    else { s with busy := true, seq := .waitReady, rxbuf := bs ++ s.rxbuf }
  | some (.frame, _) => { s with busy := true, seq := .dec, line := bs }
  | some (.host, _) | none =>
    match hostBytes bs with
    | [] => s
    | b :: opd => { s with busy := false, seq := .idle, host := ⟨b, opd, s.gsel⟩ :: s.host }

end Sys2Proof.Machine
end

