-- ==== Sys2Proof/Safety.lean ====
section
/-! DEFINITION. What holds of the machine between steps (10_state.md R22 to R33, R44; 20_memory.md R63, R64; 42_exchange.md
R150, R165; 60_exceptions.md R200), in the terms statements use. -/

namespace Sys2Proof.Machine

/-- R165: the states in which a line unit is kept. -/
def keepsLine (s : State) : Prop :=
  s.seq = .dec ∨ s.seq = .matchRec ∨ s.seq = .yield

/-- R28, R158: an item as an exchange with this GEN bit yields it: a payload of 1 to 79 bytes, a record exactly when a
matcher was supplied. -/
def itemOk (gen : Bool) (it : Item) : Prop :=
  payloadLenOk it.payload = true ∧ it.record.isSome = gen

/-- The invariant of the machine: what the spec says of the registers, the flags, the buffers and the kept values between
any two steps. -/
structure State.Inv (s : State) : Prop where
  /-- R30, R44: SEQ is IDLE exactly while no operation is in progress. -/
  busySeq : s.busy = true ↔ s.seq ≠ .idle
  /-- R33: ERR = 1 exactly when KIND is not 0. -/
  errKind : s.err = true ↔ s.kind ≠ .ok
  /-- R32, R33, R165 (first row): what acceptance cleared stays clear while the operation runs. -/
  running : s.busy = true → s.doneF = false ∧ s.kind = .ok ∧ s.resultPresent = false ∧ s.ukind = false
    ∧ s.res = [] ∧ s.errtext = []
  /-- R200: an operation that failed has left no result. -/
  failed : s.kind ≠ .ok → s.res = [] ∧ s.items = [] ∧ s.resultPresent = false ∧ s.ukind = false
  /-- R200: an operation that has not failed has left no error text. -/
  succeeded : s.kind = .ok → s.errtext = []
  /-- R23, R150: ITEMCNT counts ITEMS while an exchange runs and after it succeeds. -/
  count : s.kind = .ok → s.itemcnt = s.items.length
  /-- R23: XCHG_ZERO never accepts an item, XCHG_ONE at most one. -/
  shapeCount : (s.shape = .zero → s.itemcnt = 0) ∧ (s.shape = .one → s.itemcnt ≤ 1)
  /-- R88: XCHG_ZERO has no GEN bit. -/
  genShape : s.gen = true → s.shape ≠ .zero
  /-- R22: LEN stays in 0..80. -/
  lenBound : s.len.toNat ≤ 80
  /-- R28: every item is one the exchange can yield. -/
  itemsOk : ∀ it ∈ s.items, itemOk s.gen it
  /-- R190, R203: what the error exit is about to report is one of the six error kinds. -/
  raisedOk : s.seq = .flush → s.raised.kind ≠ .ok ∧ s.raised.kind ≠ .illegalOp
  /-- R153: the frame kept for TX is the frame of the command. -/
  frmOk : s.seq = .tx → encodePayload s.opd = some s.frm
  /-- R133, R165: the line kept is a line unit. -/
  lineKept : keepsLine s → lineOk s.line = true
  /-- R157, R158: in MATCH the line kept decodes to the payload kept, and a matcher was supplied. -/
  matchKept : s.seq = .matchRec → s.gen = true ∧ decodeFrame s.params.hexLowerOk s.line = .ok s.pay
  /-- R157 to R159: in YIELD the line kept decodes to the item's payload. -/
  yieldKept : s.seq = .yield → decodeFrame s.params.hexLowerOk s.line = .ok s.item.payload ∧ s.item.record.isSome = s.gen
  /-- R63: RXBUF is within its capacity. -/
  rxDepth : rxbufFits s.params s.rxbuf.length = true
  /-- R29: ERRTEXT is within its capacity. -/
  errDepth : cutErrtext s.params s.errtext = s.errtext
  /-- R44, R64: what RXBUF holds is the end of what the transport has delivered. -/
  history : s.rxbuf <:+ rxTaken s.hist

/-- R10: an answer within the transport's contract for this build's `RX_CHUNK_MAX` (no rule depends on it, log 22). -/
def ReadAnswer.withinContract : ReadAnswer → Prop
  | .data _ bs => bs.length + 1 ≤ (Config.rxChunkMax : Nat)
  | .timeout => True
  | .eos => True

/-- The answers that deliver these chunks, each of at least one byte. -/
def dataAnswers : List (Byte × Bytes) → List ReadAnswer
  | [] => []
  | (b, bs) :: cs => .data b bs :: dataAnswers cs

/-- The bytes of these chunks, in order. -/
def chunkBytes : List (Byte × Bytes) → Bytes
  | [] => []
  | (b, bs) :: cs => b :: bs ++ chunkBytes cs

/-- The bytes a script of answers brings, in order: what a later read will deliver. -/
def scriptBytes (rx : List ReadAnswer) : Bytes :=
  rxTaken (rx.map Event.read)

/-- R112: the payloads Encode accepts. -/
def validPayload (p : Bytes) : Prop :=
  1 ≤ p.length ∧ p.length ≤ 79 ∧ ∀ b ∈ p, 0x20#8 ≤ b ∧ b ≤ 0x7E#8

/-- R88, R160 to R162: the exchange operation with this call shape, GEN bit and command. -/
def isExchange (i : Instr) (shape : Shape) (gen : Bool) (cmd : Bytes) : Prop :=
  (i = .xchgZero cmd ∧ shape = .zero ∧ gen = false) ∨ (i = .xchgOne gen cmd ∧ shape = .one)
    ∨ (i = .xchgMany gen cmd ∧ shape = .many)

/-- R30, R88: the standalone operation with this operand. -/
def isStandalone (i : Instr) (op : Standalone) (opd : Bytes) : Prop :=
  (i = .encode opd ∧ op = .encode) ∨ (i = .decode opd ∧ op = .decode) ∨ (i = .readUnit ∧ op = .readUnit ∧ opd = [])
    ∨ (i = .writeUnit opd ∧ op = .writeUnit)

/-- R160 to R162: how many items a call shape accepts. -/
def shapeAllows (shape : Shape) (n : Nat) : Prop :=
  match shape with
  | .zero => n = 0
  | .one => n ≤ 1
  | .many => True

/-- R157, R158: the line unit `l` is decoded to this item: a frame whose payload the matcher, when there is one, accepts
with the item's record. -/
def lineYields (lower gen : Bool) (g : Matcher) (l : Bytes) (it : Item) : Prop :=
  lineOk l = true ∧ decodeFrame lower l = .ok it.payload
    ∧ ((gen = false ∧ it.record = none) ∨ (gen = true ∧ ∃ r, verdictOf g it.payload = .hit r ∧ it.record = some r))

/-- R131, R134: with these bytes at the head of the stream and then this script, no unit is ever whole and the next read
fails with this kind. -/
def readFails (tail : Bytes) (rest : List ReadAnswer) (k : Kind) : Prop :=
  cutUnit tail = none ∧ ∃ rest', (rest = .timeout :: rest' ∧ k = .timeoutError) ∨ (rest = .eos :: rest' ∧ k = .readError)

/-- R154, R192: how the first unit of an answer can fail the exchange, with the kind and the text. -/
def departsAtReady (stream : Bytes) (rest : List ReadAnswer) (k : Kind) (text : Bytes) : Prop :=
  (∃ left, stream = 0x13#8 :: left ∧ k = .protocolError ∧ text = [0x13#8])
    ∨ (∃ l left, stream = l ++ left ∧ lineOk l = true ∧ k = .protocolError ∧ text = l)
    ∨ (readFails stream rest k ∧ text = [])

/-- R155 to R162, R192: how the answer can fail the exchange after `n` items were accepted, with the kind and the text: a
second READY, a line that is no frame, a payload the matcher rejects, an item the call shape does not allow, or a read that
fails. -/
def departsInLoop (lower gen : Bool) (g : Matcher) (shape : Shape) (n : Nat) (tail : Bytes) (rest : List ReadAnswer)
    (k : Kind) (text : Bytes) : Prop :=
  (∃ left, tail = 0x11#8 :: left ∧ k = .protocolError ∧ text = [0x11#8])
    ∨ (∃ l left, tail = l ++ left ∧ lineOk l = true ∧ (∀ p, decodeFrame lower l ≠ .ok p) ∧ k = .decodeError ∧ text = l)
    ∨ (∃ l left p, tail = l ++ left ∧ lineOk l = true ∧ decodeFrame lower l = .ok p ∧ gen = true ∧ verdictOf g p = .miss
        ∧ k = .protocolError ∧ text = l)
    ∨ (∃ l left it, tail = l ++ left ∧ lineYields lower gen g l it ∧ ¬ shapeAllows shape (n + 1)
        ∧ k = .protocolError ∧ text = l)
    ∨ (readFails tail rest k ∧ text = [])

/-- R35, R166: an interaction of the drain: a read or a matcher call. -/
def isDrainEvent (e : Event) : Prop :=
  (∃ a, e = .read a) ∨ (∃ p v, e = .matched p v)

/-- R32, R200: an operation has completed: the flags and SEQ as the host sees them. -/
def completed (s : State) : Prop :=
  s.busy = false ∧ s.doneF = true ∧ s.seq = .idle

/-- R30, R211: an operation is in progress and blocked on an answer of the environment. -/
def blocked (s : State) : Prop :=
  s.busy = true ∧ waits s = true

end Sys2Proof.Machine
end

