-- ==== Sys2Proof/Certificates/Slice0/Obligations.lean ====
section
/-! DEFINITION. The statements for the provers. Each docstring names the rules of spec/ it formalises; what rests on a
choice of the model names the log entry. Where a statement gives the whole next state, these fields in it are the model's
own and follow the log, not a rule: host (log 8), sop, frm, line, pay, item, raised, gsel (log 10), rx, rxNext, tx (log 2,
3, 4), hist (log 17). -/

open Sys2Proof Sys2Proof.Machine

/-! ### Reset -/

/-- R220, with the table of R42: what reset leaves, whatever was there (CSUM and LEN are unspecified and not mentioned). -/
def Obligations.ResetPutsEveryRegisterAtItsValue : Prop :=
  ∀ s t : State, t = s.applyReset ∨ t = State.reset →
    t.rxbuf = [] ∧ t.seq = .idle ∧ t.busy = false ∧ t.doneF = false ∧ t.err = false ∧ t.resultPresent = false
      ∧ t.ukind = false ∧ t.kind = .ok ∧ t.itemcnt = 0 ∧ t.shape = .zero ∧ t.gen = false
      ∧ t.opd = [] ∧ t.res = [] ∧ t.items = [] ∧ t.errtext = []

/-- R221: reset abandons the operation in progress; it calls no environment primitive (the transport's scripts and the
host's list are as before, nothing is recorded) and reports no outcome. -/
def Obligations.ResetTouchesNoTransport : Prop :=
  ∀ s : State, s.applyReset.rx = s.rx ∧ s.applyReset.rxNext = s.rxNext ∧ s.applyReset.tx = s.tx
    ∧ s.applyReset.host = s.host ∧ s.applyReset.params = s.params ∧ s.applyReset.hist = []
    ∧ s.applyReset.doneF = false

/-! ### The host operations that stand alone -/

/-- R112: ENCODE: the frame of a valid payload, or EncodeError with the payload as text; every other field of the state is
as before. After a failure CSUM is whatever it is (K8). -/
def Obligations.EncodeOperation : Prop :=
  ∀ (s : State) (p : Bytes), s.busy = false →
    (validPayload p → exec (.encode p) s = .next { s with
      csum := xorfold p
      len := BitVec.ofNat 7 p.length
      itemcnt := 0
      seq := .idle
      opd := p
      res := 0x24#8 :: (p ++ [0x2A#8, hexhi (xorfold p), hexlo (xorfold p), 0x0D#8, 0x0A#8])
      items := []
      errtext := []
      doneF := true
      err := false
      resultPresent := true
      ukind := false
      kind := .ok
      sop := .encode
      host := s.host.tail })
    ∧ (¬ validPayload p → ∃ c, exec (.encode p) s = .next { s with
      csum := c
      len := BitVec.ofNat 7 (min p.length 80)
      itemcnt := 0
      seq := .idle
      opd := p
      res := []
      items := []
      errtext := cutErrtext s.params p
      doneF := true
      err := true
      resultPresent := false
      ukind := false
      kind := .encodeError
      sop := .encode
      host := s.host.tail })

/-- R114: DECODE: the payload of a frame (anchored at both ends, any payload bytes, the checksum field equal to the
exclusive or), or DecodeError with the whole operand as text; every other field as before. After a failure CSUM and LEN are
whatever they are (K8). ITEMCNT: R206, log 19. -/
def Obligations.DecodeOperation : Prop :=
  ∀ (s : State) (f : Bytes), s.busy = false →
    (∀ p h l, f = 0x24#8 :: (p ++ [0x2A#8, h, l, 0x0D#8, 0x0A#8]) → 1 ≤ p.length → p.length ≤ 79 →
      ishex s.params.hexLowerOk h = true → ishex s.params.hexLowerOk l = true →
      (xorfold p).toNat = 16 * hexval h + hexval l →
      exec (.decode f) s = .next { s with
        csum := xorfold p
        len := BitVec.ofNat 7 p.length
        itemcnt := 0
        seq := .idle
        opd := f
        res := p
        items := []
        errtext := []
        doneF := true
        err := false
        resultPresent := true
        ukind := false
        kind := .ok
        sop := .decode
        host := s.host.tail })
    ∧ ((¬ ∃ p h l, f = 0x24#8 :: (p ++ [0x2A#8, h, l, 0x0D#8, 0x0A#8]) ∧ 1 ≤ p.length ∧ p.length ≤ 79
        ∧ ishex s.params.hexLowerOk h = true ∧ ishex s.params.hexLowerOk l = true
        ∧ (xorfold p).toNat = 16 * hexval h + hexval l) →
      ∃ c n, exec (.decode f) s = .next { s with
        csum := c
        len := n
        itemcnt := 0
        seq := .idle
        opd := f
        res := []
        items := []
        errtext := cutErrtext s.params f
        doneF := true
        err := true
        resultPresent := false
        ukind := false
        kind := .decodeError
        sop := .decode
        host := s.host.tail })

/-- R132, R140: READ_UNIT when the bytes in RXBUF and the chunks the transport delivers complete a unit: the unit is in RES,
the bytes after it stay in RXBUF, no more reads are made than the unit needs (no proper beginning of the chunks taken
completes it), every other field as before. ITEMCNT: R206, log 19; OPD: log 11. -/
def Obligations.ReadUnitReturnsTheNextUnit : Prop :=
  ∀ (s : State) (cs : List (Byte × Bytes)) (rest : List ReadAnswer) (u : RxUnit) (left : Bytes), s.busy = false →
    s.rx = dataAnswers cs ++ rest → rxbufFits s.params (s.rxbuf ++ chunkBytes cs).length = true →
    s.rxbuf ++ chunkBytes cs = u.bytes ++ left → (∀ l, u = .line l → lineOk l = true) →
    ∃ cs1 cs2 r, cs = cs1 ++ cs2 ∧ r ++ chunkBytes cs2 = left
      ∧ (∀ a b, cs1 = a ++ b → b ≠ [] → cutUnit (s.rxbuf ++ chunkBytes a) = none)
      ∧ exec .readUnit s = .next { s with
          itemcnt := 0
          seq := .idle
          rxbuf := r
          opd := []
          res := u.bytes
          items := []
          errtext := []
          doneF := true
          err := false
          resultPresent := true
          ukind := u.isLine
          kind := .ok
          sop := .readUnit
          host := s.host.tail
          rx := dataAnswers cs2 ++ rest
          hist := s.hist ++ (dataAnswers cs1).map Event.read }

/-- R131, R134, R204: READ_UNIT whose read ends in Timeout or Eos before a unit is whole: the kind, no text, every received
byte still in RXBUF, no flush, every other field as before. -/
def Obligations.ReadUnitFailsWithoutLoss : Prop :=
  ∀ (s : State) (cs : List (Byte × Bytes)) (a : ReadAnswer) (rest : List ReadAnswer) (k : Kind), s.busy = false →
    s.rx = dataAnswers cs ++ a :: rest → rxbufFits s.params (s.rxbuf ++ chunkBytes cs).length = true →
    cutUnit (s.rxbuf ++ chunkBytes cs) = none → (a = .timeout ∧ k = .timeoutError ∨ a = .eos ∧ k = .readError) →
    exec .readUnit s = .next { s with
      itemcnt := 0
      seq := .idle
      rxbuf := s.rxbuf ++ chunkBytes cs
      opd := []
      res := []
      items := []
      errtext := []
      doneF := true
      err := true
      resultPresent := false
      ukind := false
      kind := k
      sop := .readUnit
      host := s.host.tail
      rx := rest
      hist := s.hist ++ (dataAnswers cs ++ [a]).map Event.read }

/-- The model's form of "simply blocked until the answer" (R211; log 2): READ_UNIT with no unit whole and no answer left takes
in what has come and stays in EXEC with BUSY = 1; a step without a new answer then changes nothing. In any row that reads
(WAIT_READY, READ, a READ_UNIT in EXEC), chunks that come and complete no unit are taken in and nothing else changes. -/
def Obligations.ReadUnitWaitsForTheTransport : Prop :=
  ∀ (s : State) (cs : List (Byte × Bytes)), s.rx = dataAnswers cs →
    rxbufFits s.params (s.rxbuf ++ chunkBytes cs).length = true → cutUnit (s.rxbuf ++ chunkBytes cs) = none →
    (s.busy = false → ∃ t, exec .readUnit s = .next t ∧ t.busy = true ∧ t.seq = .exec ∧ t.sop = .readUnit
      ∧ t.rxbuf = s.rxbuf ++ chunkBytes cs ∧ t.rx = [] ∧ t.doneF = false ∧ t.kind = .ok ∧ blocked t ∧ step t = .next t)
    ∧ (s.readsUnit = true → step s = .next { s with
        rxbuf := s.rxbuf ++ chunkBytes cs, rx := [], hist := s.hist ++ (dataAnswers cs).map Event.read })

/-- R63, R131 (K2): with a finite RXBUF_DEPTH, a fill that would pass it is refused by name (log 18): the first fill of a
READ_UNIT or a later one, and those of every row that reads (WAIT_READY, READ, a READ_UNIT in EXEC). -/
def Obligations.OverfullReceiveBufferIsRefused : Prop :=
  ∀ (s : State) (d : Nat) (cs : List (Byte × Bytes)) (b : Byte) (bs : Bytes) (rest : List ReadAnswer),
    s.params.rxbufDepth = some d → s.rx = dataAnswers cs ++ .data b bs :: rest →
    (s.rxbuf ++ chunkBytes cs).length ≤ d → cutUnit (s.rxbuf ++ chunkBytes cs) = none →
    d < (s.rxbuf ++ chunkBytes cs).length + (bs.length + 1) →
    (s.busy = false → exec .readUnit s = .refused .rxbufOverflow)
    ∧ (s.readsUnit = true → step s = .refused .rxbufOverflow)

/-- R135: WRITE_UNIT: one TransportWrite of the whole operand; OK when all of it is accepted, WriteError when the count is
short; RXBUF and every other field as before. While the transport has not answered, the operation has been accepted and
stays in EXEC (log 2). ITEMCNT: R206, log 19; how much is accepted: log 4. -/
def Obligations.WriteUnitOperation : Prop :=
  ∀ (s : State) (bs : Bytes), s.busy = false →
    (∀ k ks, s.tx = k :: ks → bs.length ≤ k → exec (.writeUnit bs) s = .next { s with
      itemcnt := 0
      seq := .idle
      opd := bs
      res := []
      items := []
      errtext := []
      doneF := true
      err := false
      resultPresent := false
      ukind := false
      kind := .ok
      sop := .writeUnit
      host := s.host.tail
      tx := ks
      hist := s.hist ++ [.write bs bs.length] })
    ∧ (∀ k ks, s.tx = k :: ks → k < bs.length → exec (.writeUnit bs) s = .next { s with
      itemcnt := 0
      seq := .idle
      opd := bs
      res := []
      items := []
      errtext := []
      doneF := true
      err := true
      resultPresent := false
      ukind := false
      kind := .writeError
      sop := .writeUnit
      host := s.host.tail
      tx := ks
      hist := s.hist ++ [.write bs k] })
    ∧ (s.tx = [] → exec (.writeUnit bs) s = .next { s with
      itemcnt := 0
      seq := .exec
      opd := bs
      res := []
      items := []
      errtext := []
      busy := true
      doneF := false
      err := false
      resultPresent := false
      ukind := false
      kind := .ok
      sop := .writeUnit
      host := s.host.tail })

/-! ### The wire rows -/

/-- R132, R154, R156, R165: CTL_READY where a unit is being read; elsewhere (log 14) nothing. -/
def Obligations.ReadyUnitMeaning : Prop :=
  ∀ s : State,
    (s.seq = .waitReady → exec .ctlReady s = .next { s with rxbuf := s.rxbuf.drop 1, seq := .read })
    ∧ (s.seq = .read → exec .ctlReady s = .next { s with
        rxbuf := s.rxbuf.drop 1, seq := .flush, raised := ⟨.protocolError, [0x11#8]⟩ })
    ∧ (s.seq = .exec → s.sop = .readUnit → exec .ctlReady s = .next { s with
        rxbuf := s.rxbuf.drop 1, res := [0x11#8], ukind := false, resultPresent := true, errtext := []
        kind := .ok, err := false, doneF := true, busy := false, seq := .idle })
    ∧ (s.seq ≠ .waitReady → s.seq ≠ .read → ¬ (s.seq = .exec ∧ s.sop = .readUnit) → exec .ctlReady s = .next s)

/-- R132, R154, R155, R164, R165: CTL_DONE where a unit is being read; elsewhere (log 14) nothing. -/
def Obligations.DoneUnitMeaning : Prop :=
  ∀ s : State,
    (s.seq = .read → exec .ctlDone s = .next { s with
        rxbuf := s.rxbuf.drop 1, resultPresent := decide (s.shape = .one ∧ s.itemcnt = 1), errtext := []
        kind := .ok, err := false, doneF := true, busy := false, seq := .idle })
    ∧ (s.seq = .waitReady → exec .ctlDone s = .next { s with
        rxbuf := s.rxbuf.drop 1, seq := .flush, raised := ⟨.protocolError, [0x13#8]⟩ })
    ∧ (s.seq = .exec → s.sop = .readUnit → exec .ctlDone s = .next { s with
        rxbuf := s.rxbuf.drop 1, res := [0x13#8], ukind := false, resultPresent := true, errtext := []
        kind := .ok, err := false, doneF := true, busy := false, seq := .idle })
    ∧ (s.seq ≠ .waitReady → s.seq ≠ .read → ¬ (s.seq = .exec ∧ s.sop = .readUnit) → exec .ctlDone s = .next s)

/-- R132, R154, R155, R165: LINE where a unit is being read (a line at WAIT_READY is a ProtocolError, undecoded); elsewhere
(log 14) nothing. -/
def Obligations.LineUnitMeaning : Prop :=
  ∀ (s : State) (l : Bytes),
    (s.seq = .read → exec (.line l) s = .next { s with rxbuf := s.rxbuf.drop l.length, line := l, seq := .dec })
    ∧ (s.seq = .waitReady → exec (.line l) s = .next { s with
        rxbuf := s.rxbuf.drop l.length, seq := .flush, raised := ⟨.protocolError, l⟩ })
    ∧ (s.seq = .exec → s.sop = .readUnit → exec (.line l) s = .next { s with
        rxbuf := s.rxbuf.drop l.length, res := l, ukind := true, resultPresent := true, errtext := []
        kind := .ok, err := false, doneF := true, busy := false, seq := .idle })
    ∧ (s.seq ≠ .waitReady → s.seq ≠ .read → ¬ (s.seq = .exec ∧ s.sop = .readUnit) → exec (.line l) s = .next s)

/-- R157, R158, R165: FRAME in DEC: the payload goes to the matcher when GEN = 1, else to the call shape with the record
absent; elsewhere (log 14) nothing. -/
def Obligations.FrameMeaning : Prop :=
  ∀ (s : State) (p : Bytes), p.length ≤ 79 →
    (s.seq = .dec → s.gen = true → exec (.frame p) s = .next { s with
        csum := xorfold p, len := BitVec.ofNat 7 p.length, pay := p, seq := .matchRec })
    ∧ (s.seq = .dec → s.gen = false → exec (.frame p) s = .next { s with
        csum := xorfold p, len := BitVec.ofNat 7 p.length, pay := p, item := ⟨p, none⟩, seq := .yield })
    ∧ (s.seq ≠ .dec → exec (.frame p) s = .next s)

/-! ### The rows of the sequencer -/

/-- R153, R165: the rows ENC and TX of an exchange in progress. -/
def Obligations.CommandRowsOfTheSequencer : Prop :=
  ∀ s : State, s.busy = true →
    (s.seq = .enc → validPayload s.opd → step s = .next { s with
        csum := xorfold s.opd, len := BitVec.ofNat 7 s.opd.length, seq := .tx
        frm := 0x24#8 :: (s.opd ++ [0x2A#8, hexhi (xorfold s.opd), hexlo (xorfold s.opd), 0x0D#8, 0x0A#8]) })
    ∧ (s.seq = .enc → ¬ validPayload s.opd → ∃ c, step s = .next { s with
        csum := c, len := BitVec.ofNat 7 (min s.opd.length 80), seq := .flush, raised := ⟨.encodeError, s.opd⟩ })
    ∧ (∀ k ks, s.seq = .tx → s.tx = k :: ks → s.frm.length ≤ k → step s = .next { s with
        tx := ks, hist := s.hist ++ [.write s.frm s.frm.length], seq := .waitReady })
    ∧ (∀ k ks, s.seq = .tx → s.tx = k :: ks → k < s.frm.length → step s = .next { s with
        tx := ks, hist := s.hist ++ [.write s.frm k], seq := .flush, raised := ⟨.writeError, []⟩ })
    ∧ (s.seq = .tx → s.tx = [] → step s = .next s)

/-- R131, R134, R165, R204: the rows that read a unit when the read fails: every received byte is still in RXBUF; in
WAIT_READY and READ the kind is raised with no text; a READ_UNIT resumed in EXEC completes with the kind and no text, with
no flush. -/
def Obligations.FailedReadRowOfTheSequencer : Prop :=
  ∀ (s : State) (cs : List (Byte × Bytes)) (a : ReadAnswer) (rest : List ReadAnswer) (k : Kind), s.busy = true →
    s.rx = dataAnswers cs ++ a :: rest →
    rxbufFits s.params (s.rxbuf ++ chunkBytes cs).length = true → cutUnit (s.rxbuf ++ chunkBytes cs) = none →
    (a = .timeout ∧ k = .timeoutError ∨ a = .eos ∧ k = .readError) →
    (s.seq = .waitReady ∨ s.seq = .read → step s = .next { s with
      rxbuf := s.rxbuf ++ chunkBytes cs, rx := rest, hist := s.hist ++ (dataAnswers cs ++ [a]).map Event.read
      seq := .flush, raised := ⟨k, []⟩ })
    ∧ (s.seq = .exec → s.sop = .readUnit → step s = .next { s with
      rxbuf := s.rxbuf ++ chunkBytes cs, rx := rest, hist := s.hist ++ (dataAnswers cs ++ [a]).map Event.read
      seq := .idle, res := [], items := [], errtext := [], busy := false, doneF := true, err := true
      resultPresent := false, ukind := false, kind := k })

/-- R157, R158, R165: the rows DEC and MATCH. -/
def Obligations.DecodeRowsOfTheSequencer : Prop :=
  ∀ s : State, s.busy = true →
    (∀ p, s.seq = .dec → decodeFrame s.params.hexLowerOk s.line = .ok p → step s = exec (.frame p) s)
    ∧ (s.seq = .dec → (∀ p, decodeFrame s.params.hexLowerOk s.line ≠ .ok p) → ∃ c n, step s = .next { s with
        csum := c, len := n, seq := .flush, raised := ⟨.decodeError, s.line⟩ })
    ∧ (∀ r, s.seq = .matchRec → verdictOf s.gsel s.pay = .hit r → step s = .next { s with
        item := ⟨s.pay, some r⟩, seq := .yield, hist := s.hist ++ [.matched s.pay (.hit r)] })
    ∧ (s.seq = .matchRec → verdictOf s.gsel s.pay = .miss → step s = .next { s with
        seq := .flush, raised := ⟨.protocolError, s.line⟩, hist := s.hist ++ [.matched s.pay .miss] })

/-- R159 to R162, R165: the row YIELD: the call shape's rule, at once. -/
def Obligations.YieldRowOfTheSequencer : Prop :=
  ∀ s : State, s.busy = true → s.seq = .yield →
    (s.shape = .zero → step s = .next { s with seq := .flush, raised := ⟨.protocolError, s.line⟩ })
    ∧ (s.shape = .one → s.itemcnt = 0 → step s = .next { s with items := [s.item], itemcnt := 1, seq := .read })
    ∧ (s.shape = .one → s.itemcnt = 1 → step s = .next { s with seq := .flush, raised := ⟨.protocolError, s.line⟩ })
    ∧ (s.shape = .many → step s = .next { s with
        items := s.items ++ [s.item], itemcnt := s.itemcnt + 1, seq := .read })

/-- R203, R200, R59: the row FLUSH: exactly one flush, RXBUF emptied when the build says so, ITEMS emptied, ITEMCNT kept, the
kind and the text reported; nothing else changes. What the transport had not delivered is discarded: the answers that
follow are those after the flush (log 3). -/
def Obligations.ErrorExitFlushesThenReports : Prop :=
  ∀ s : State, s.busy = true → s.seq = .flush → s.raised.kind ≠ .ok →
    step s = .next { s with
      seq := .idle
      rxbuf := if s.params.flushClearsRxbuf then [] else s.rxbuf
      res := []
      items := []
      errtext := cutErrtext s.params s.raised.text
      busy := false
      doneF := true
      err := true
      resultPresent := false
      ukind := false
      kind := s.raised.kind
      rx := s.rxNext.headD []
      rxNext := s.rxNext.tail
      hist := s.hist ++ [.flush] }

/-! ### Steps, operation words, host registers -/

/-- A step runs the decoded instruction: the operation of the command next in line of an idle block (R61), the unit that
ReadUnit finds in a state that reads one (R132), the frame the kept line is in DEC (R157). The state a unit runs in is the one
its reads have left. -/
def Obligations.StepRunsTheDecodedInstruction : Prop :=
  (∀ (s : State) (c : Command) (cs : List Command) (i : Instr), s.busy = false → s.host = c :: cs →
      decodeCommand c = .ok i → step s = exec i s)
  ∧ (∀ (s t : State) (u : RxUnit), s.readsUnit = true → fetchUnit s.rx s = .found u t → step s = exec u.toInstr t)
  ∧ (∀ (s : State) (p : Bytes), s.busy = true → s.seq = .dec → decodeFrame s.params.hexLowerOk s.line = .ok p →
      step s = exec (.frame p) s)

/-- The instruction of a table word, placed by withFetchWord, is what the next step runs (log 15). -/
def Obligations.FetchWordRunsTheInstruction : Prop :=
  ∀ (s : State) (nbits w : Nat) (i : Instr), decodeTableWord nbits w = some i →
    step (s.withFetchWord nbits w) = exec i (s.withFetchWord nbits w)

/-- R89: a reserved operation word completes at once with IllegalOp and changes nothing else; a word that is not reserved is
an operation (or still awaits its operand). The fields of the word are read off its number. -/
def Obligations.ReservedWordCompletesWithIllegalOp : Prop :=
  ∀ (s : State) (c : Command) (cs : List Command), s.busy = false → s.host = c :: cs →
    let opc := c.word.toNat % 16
    let gen := c.word.toNat / 16 % 2
    let reserved := opc = 0 ∨ opc = 5 ∨ opc = 6 ∨ opc = 7 ∨ 0xB ≤ opc ∨ c.word.toNat / 32 % 4 ≠ 0
      ∨ (gen = 1 ∧ opc ≠ 9 ∧ opc ≠ 0xA) ∨ (opc = 3 ∧ c.word.toNat / 128 = 0)
    (reserved → step s = .next { s with
        seq := .idle, res := [], items := [], errtext := [], doneF := true, err := true
        resultPresent := false, ukind := false, kind := .illegalOp, host := cs })
    ∧ (¬ reserved → (c.opd ≠ [] ∨ c.word.toNat / 128 = 1) → ∃ i, decodeCommand c = .ok i ∧ step s = exec i s)

/-- R209: an operation word written while BUSY = 1 is ignored: the host's write changes nothing, and a host operation
offered to a busy block has no effect but that its word is gone (log 23). -/
def Obligations.BusyBlockIgnoresOperationWords : Prop :=
  ∀ s : State, s.busy = true →
    (∀ (i : BitVec 3) (v : HostWord) (opd : Bytes) (g : Matcher), csrWrite s i v opd g = s)
    ∧ (∀ i : Instr, i.port = .host → exec i s = .next { s with host := s.host.tail })

/-- R36, with the codes of R24, R30 and R190: every field of every host register, its value at reset, and what a write
does: a word written while idle starts its operation at once, so that a second write changes nothing (bits 15:8 ignored,
log 13; with EMPTY = 0 and no operand byte there is no command yet, log 12). -/
def Obligations.HostRegistersShowTheState : Prop :=
  (∀ s : State, csrRead s 0#3 = 0#16
    ∧ (csrRead s 1#3).getLsbD 0 = s.busy ∧ (csrRead s 1#3).getLsbD 1 = s.doneF ∧ (csrRead s 1#3).getLsbD 2 = s.err
    ∧ (csrRead s 1#3).getLsbD 3 = s.resultPresent ∧ (csrRead s 1#3).getLsbD 4 = s.ukind
    ∧ (csrRead s 1#3).extractLsb' 5 3 = kindCode s.kind ∧ (csrRead s 1#3).extractLsb' 8 4 = seqCode s.seq
    ∧ (csrRead s 1#3).extractLsb' 12 4 = 0#4
    ∧ (csrRead s 2#3).toNat = min s.itemcnt 0xFFFF ∧ (csrRead s 3#3).toNat = min s.rxbuf.length 0xFFFF
    ∧ (csrRead s 4#3).toNat = min s.res.length 0xFFFF ∧ (csrRead s 5#3).toNat = min s.errtext.length 0xFFFF
    ∧ (csrRead s 6#3).extractLsb' 0 2 = shapeCode s.shape ∧ (csrRead s 6#3).getLsbD 2 = s.gen
    ∧ (csrRead s 6#3).extractLsb' 3 13 = 0#13
    ∧ (csrRead s 7#3).getLsbD 0 = s.params.hexLowerOk ∧ (csrRead s 7#3).getLsbD 1 = s.params.flushClearsRxbuf
    ∧ (csrRead s 7#3).extractLsb' 2 14 = 0#14)
  ∧ (∀ i : BitVec 3, i ≠ 7#3 → csrRead State.reset i = 0#16)
  ∧ (∀ (s : State) (i : BitVec 3) (v : HostWord) (opd : Bytes) (g : Matcher),
      (i ≠ 0#3 → csrWrite s i v opd g = s)
      ∧ (i = 0#3 → s.busy = true → csrWrite s i v opd g = s)
      ∧ (∀ op, i = 0#3 → s.busy = false → decodeOp (v.extractLsb' 0 8) opd = .ok op →
          let t := csrWrite s i v opd g
          t.busy = true ∧ (csrRead t 1#3).getLsbD 0 = true ∧ (csrRead t 1#3).getLsbD 1 = false
            ∧ (csrRead t 1#3).extractLsb' 5 3 = 0#3 ∧ t.host = s.host
            ∧ ∀ (j : BitVec 3) (v' : HostWord) (opd' : Bytes) (g' : Matcher), csrWrite t j v' opd' g' = t)
      ∧ (i = 0#3 → s.busy = false → decodeOp (v.extractLsb' 0 8) opd = .error .operandMissing →
          csrWrite s i v opd g = s))
  ∧ [Kind.ok, .timeoutError, .readError, .writeError, .encodeError, .decodeError, .protocolError, .illegalOp].map kindCode
      = [0#3, 1#3, 2#3, 3#3, 4#3, 5#3, 6#3, 7#3]
  ∧ [Seq.idle, .enc, .tx, .waitReady, .read, .dec, .matchRec, .yield, .flush, .exec].map seqCode
      = [0#4, 1#4, 2#4, 3#4, 4#4, 5#4, 6#4, 7#4, 8#4, 9#4]
  ∧ [Shape.zero, .one, .many].map shapeCode = [0#2, 1#2, 2#2]

/-- R44: a block that is idle and is given nothing does nothing, whatever the transport holds. -/
def Obligations.IdleBlockDoesNothing : Prop :=
  ∀ s : State, s.busy = false → s.host = [] → step s = .next s

/-- R200: what the last step of every operation leaves: the outcome in the flags, KIND and ERRTEXT, a result only without an
error, everything else as before (the text is cut to ERRTEXT_DEPTH, R29), and a block that does nothing further until it is
given the next operation (the host list and the idle step are the model's, log 8). -/
def Obligations.CompletionRecordsTheOutcome : Prop :=
  ∀ (k : Kind) (text : Bytes) (s : State),
    (k ≠ .ok → complete k text s = { s with
        kind := k, err := true, doneF := true, busy := false, seq := .idle, res := [], items := []
        resultPresent := false, ukind := false, errtext := cutErrtext s.params text })
    ∧ (k = .ok → complete k text s = { s with
        kind := .ok, err := false, doneF := true, busy := false, seq := .idle, errtext := [] })
    ∧ (s.host = [] → step (complete k text s) = .next (complete k text s))

/-! ### Encoding -/

/-- R80, R81, R88: decoding what is encoded gives the instruction back, for every instruction the encodings carry and either
value of HEX_LOWER_OK. -/
def Obligations.DecodeOfEncodeIsTheInstruction : Prop :=
  ∀ (lower : Bool) (i : Instr), i.wf = true → decode i.port lower (encode i) = .ok (i, [])

/-- R83, R85, R88, R114: what the decoder answers is well formed and belongs to the port, and its encoding is the bytes
decoded: of an operation word when its EMPTY bit agrees with the operand bytes (log 12), of a unit with what follows it handed
back, of a frame but for the case of the checksum's letters, which only HEX_LOWER_OK true leaves open. -/
def Obligations.DecodedInstructionsAreWellFormed : Prop :=
  ∀ (port : Port) (lower : Bool) (bs rest : Bytes) (i : Instr), decode port lower bs = .ok (i, rest) →
    i.wf = true ∧ i.port = port
      ∧ (port = .host → rest = [] ∧ ∀ w opd, bs = w :: opd → (w.toNat / 128 = 1 ↔ opd = []) → encode i = bs)
      ∧ (port = .unit → encode i ++ rest = bs)
      ∧ (port = .frame → rest = [] ∧ (lower = false → encode i = bs)
          ∧ ∃ p h l h' l', i = .frame p ∧ bs = 0x24#8 :: (p ++ [0x2A#8, h, l, 0x0D#8, 0x0A#8])
              ∧ encode i = 0x24#8 :: (p ++ [0x2A#8, h', l', 0x0D#8, 0x0A#8])
              ∧ hexval h' = hexval h ∧ hexval l' = hexval l)

/-- Words of R80, R81 and R88 written out from the encodings decode to the instructions they stand for (a sanity
statement). -/
def Obligations.WrittenOutWordsDecode : Prop :=
  decode .host false [0x01#8, 0x41#8] = .ok (.encode [0x41#8], [])
  ∧ decode .host false [0x82#8] = .ok (.decode [], [])
  ∧ decode .host false [0x83#8] = .ok (.readUnit, [])
  ∧ decode .host false [0x19#8, 0x51#8] = .ok (.xchgOne true [0x51#8], [])
  ∧ decode .host false [0x9A#8] = .ok (.xchgMany true [], [])
  ∧ decode .unit false [0x11#8, 0x24#8] = .ok (.ctlReady, [0x24#8])
  ∧ decode .unit false [0x61#8, 0x11#8, 0x0A#8, 0x13#8] = .ok (.line [0x61#8, 0x11#8, 0x0A#8], [0x13#8])
  ∧ decode .frame false [0x24#8, 0x41#8, 0x2A#8, 0x34#8, 0x31#8, 0x0D#8, 0x0A#8] = .ok (.frame [0x41#8], [])

/-- R85: the opcode map of the wire, complete over the first byte. -/
def Obligations.FirstByteDecidesTheUnit : Prop :=
  ∀ bs : Bytes, cutUnit (0x11#8 :: bs) = some (.ready, bs) ∧ cutUnit (0x13#8 :: bs) = some (.done, bs)
    ∧ cutUnit (0x0A#8 :: bs) = some (.line [0x0A#8], bs)
    ∧ ∀ b0 : Byte, b0 ≠ 0x11#8 → b0 ≠ 0x13#8 → b0 ≠ 0x0A#8 →
        (∀ body rest, 0x0A#8 ∉ body → bs = body ++ 0x0A#8 :: rest →
          cutUnit (b0 :: bs) = some (.line (b0 :: (body ++ [0x0A#8])), rest))
        ∧ (0x0A#8 ∉ bs → cutUnit (b0 :: bs) = none)

/-! ### Laws of the codec -/

/-- R111: the laws (a) to (f) of the checksum. -/
def Obligations.ChecksumLaws : Prop :=
  xorfold [] = 0x00#8 ∧ (∀ b, xorfold [b] = b)
  ∧ (∀ s t, xorfold (s ++ t) = xorfold s ^^^ xorfold t)
  ∧ (∀ s t : Bytes, s.Perm t → xorfold s = xorfold t)
  ∧ (∀ b, xorfold [b, b] = 0x00#8)
  ∧ (∀ (s t : Bytes) (b b' : Byte), xorfold (s ++ b' :: t) = xorfold (s ++ b :: t) ^^^ (b ^^^ b')
      ∧ (b' ≠ b → b ^^^ b' ≠ 0x00#8 ∧ xorfold (s ++ b' :: t) ≠ xorfold (s ++ b :: t)))
  ∧ (∀ s : Bytes, (∀ b ∈ s, b < 0x80#8) → xorfold s < 0x80#8)

/-- R116: the round trip of the codec in both directions, and where the converse fails. -/
def Obligations.CodecRoundTrip : Prop :=
  (∀ p, validPayload p → ∃ f, encodePayload p = some f)
  ∧ (∀ (lower : Bool) (p f : Bytes), encodePayload p = some f → decodeFrame lower f = .ok p)
  ∧ (∀ p f : Bytes, decodeFrame false f = .ok p → (∀ b ∈ p, printable b = true) → encodePayload p = some f)
  ∧ (∃ p f : Bytes, decodeFrame false f = .ok p ∧ encodePayload p = none)
  ∧ (∃ p f g : Bytes, decodeFrame true f = .ok p ∧ encodePayload p = some g ∧ g ≠ f)

/-- R117: of the flips of one bit of a frame that decodes, those that still decode are exactly the flips of bit 5 of a letter
digit with HEX_LOWER_OK true, and they decode to the same payload; so with HEX_LOWER_OK false every flip is detected, and
with either value every flip in the payload, SOF, SEP, CR and LF is. -/
def Obligations.SingleBitFlipsAreDetected : Prop :=
  ∀ (lower : Bool) (f p : Bytes) (i j : Nat), decodeFrame lower f = .ok p → i < f.length → j < 8 →
    let flipped := f.set i (f.getD i 0x00#8 ^^^ (1#8 <<< j))
    let survives := lower = true ∧ j = 5 ∧ (i = f.length - 4 ∨ i = f.length - 3) ∧ 10 ≤ hexval (f.getD i 0x00#8)
    ((∃ q, decodeFrame lower flipped = .ok q) → survives) ∧ (survives → decodeFrame lower flipped = .ok p)

/-- R118: what the checksum does not detect: a frame whose payload is replaced by a permutation of it still decodes. -/
def Obligations.PermutedPayloadStillDecodes : Prop :=
  ∀ (lower : Bool) (p q : Bytes) (h l : Byte), p.Perm q →
    decodeFrame lower (0x24#8 :: (p ++ [0x2A#8, h, l, 0x0D#8, 0x0A#8])) = .ok p →
    decodeFrame lower (0x24#8 :: (q ++ [0x2A#8, h, l, 0x0D#8, 0x0A#8])) = .ok q

/-! ### Laws of the line reader -/

/-- R133 (a) to (d): what a READ_UNIT that completes without error has returned, and that a line unit may hold 0x11 and 0x13
anywhere but at its head; and R64: every received byte is in the unit or still in RXBUF, in order (what is still to be
delivered is the script of log 2). -/
def Obligations.ReturnedUnitProperties : Prop :=
  ∀ s t : State, s.busy = false → exec .readUnit s = .next t →
    (t.busy = false → t.kind = .ok → t.ukind = false → t.res = [0x11#8] ∨ t.res = [0x13#8])
    ∧ (t.busy = false → t.kind = .ok → t.ukind = true → ∃ body, t.res = body ++ [0x0A#8] ∧ 0x0A#8 ∉ body
        ∧ t.res.head? ≠ some 0x11#8 ∧ t.res.head? ≠ some 0x13#8)
    ∧ (∃ new, t.hist = s.hist ++ new ∧ s.rxbuf ++ rxTaken new = t.res ++ t.rxbuf ∧ txStream new = []
        ∧ scriptBytes s.rx = rxTaken new ++ scriptBytes t.rx)
    ∧ (∀ b body left, s.rxbuf = b :: (body ++ 0x0A#8 :: left) → b ≠ 0x11#8 → b ≠ 0x13#8 → b ≠ 0x0A#8 → 0x0A#8 ∉ body →
        t.busy = false ∧ t.kind = .ok ∧ t.ukind = true ∧ t.res = b :: (body ++ [0x0A#8]) ∧ t.rxbuf = left)

/-- R137: READ_UNIT gives the same unit and leaves the same stream behind however the bytes are cut into chunks. -/
def Obligations.ChunkingDoesNotMatter : Prop :=
  ∀ (s : State) (cs ds : List (Byte × Bytes)) (rest : List ReadAnswer) (t : State), s.busy = false →
    rxbufFits s.params (s.rxbuf ++ chunkBytes cs).length = true → chunkBytes cs = chunkBytes ds →
    exec .readUnit { s with rx := dataAnswers cs ++ rest } = .next t →
    cutUnit (s.rxbuf ++ chunkBytes cs) ≠ none →
    ∃ t', exec .readUnit { s with rx := dataAnswers ds ++ rest } = .next t'
      ∧ t'.res = t.res ∧ t'.ukind = t.ukind ∧ t'.kind = t.kind ∧ t'.busy = t.busy
      ∧ t'.rxbuf ++ scriptBytes t'.rx = t.rxbuf ++ scriptBytes t.rx

/-! ### Exchanges -/

/-- R153, R196, R203: an exchange whose command cannot be encoded: nothing is written or read, one flush, EncodeError with the
command as text. -/
def Obligations.UnencodableCommandOnlyFlushes : Prop :=
  ∀ (s : State) (i : Instr) (shape : Shape) (gen : Bool) (cmd : Bytes), isExchange i shape gen cmd → s.busy = false →
    ¬ validPayload cmd → ∃ c, exec i s = .next { s with
      csum := c
      len := BitVec.ofNat 7 (min cmd.length 80)
      itemcnt := 0
      shape := shape
      gen := gen
      seq := .idle
      rxbuf := if s.params.flushClearsRxbuf then [] else s.rxbuf
      opd := cmd
      res := []
      items := []
      errtext := cutErrtext s.params cmd
      doneF := true
      err := true
      resultPresent := false
      ukind := false
      kind := .encodeError
      raised := ⟨.encodeError, cmd⟩
      gsel := if gen then presentedMatcher s else s.gsel
      host := s.host.tail
      rx := s.rxNext.headD []
      rxNext := s.rxNext.tail
      hist := s.hist ++ [.flush] }

/-- R153, R195, R231: an exchange whose command frame is not accepted in full: the prefix has gone, nothing is read, one
flush, WriteError with no text. -/
def Obligations.ShortWriteEndsTheExchange : Prop :=
  ∀ (s : State) (i : Instr) (shape : Shape) (gen : Bool) (cmd : Bytes) (k : Nat) (ks : List Nat),
    isExchange i shape gen cmd → s.busy = false → validPayload cmd → s.tx = k :: ks → k < cmd.length + 6 →
    exec i s = .next { s with
      csum := xorfold cmd
      len := BitVec.ofNat 7 cmd.length
      itemcnt := 0
      shape := shape
      gen := gen
      seq := .idle
      rxbuf := if s.params.flushClearsRxbuf then [] else s.rxbuf
      opd := cmd
      res := []
      items := []
      errtext := []
      doneF := true
      err := true
      resultPresent := false
      ukind := false
      kind := .writeError
      frm := frameOf cmd
      raised := ⟨.writeError, []⟩
      gsel := if gen then presentedMatcher s else s.gsel
      host := s.host.tail
      tx := ks
      rx := s.rxNext.headD []
      rxNext := s.rxNext.tail
      hist := s.hist ++ [.write (frameOf cmd) k, .flush] }

/-- R150 (a), R152, R155, R160 to R162, R164, R166, R168: an exchange whose answer is READY, lines that decode and that the
matcher accepts, as many as the call shape allows, and DONE: it completes without error with exactly those items in
order; the command frame is all that was written, before any read; nothing is flushed; what follows DONE is left for the
next operation, however the answer was cut into chunks. The scratch and kept registers named by the quantifiers may
change; every other field is as before. -/
def Obligations.ExchangeReturnsItsItems : Prop :=
  ∀ (s : State) (i : Instr) (shape : Shape) (gen : Bool) (cmd : Bytes) (k : Nat) (ks : List Nat)
    (cs : List (Byte × Bytes)) (rest : List ReadAnswer) (ls : List Bytes) (its : List Item) (left : Bytes),
    isExchange i shape gen cmd → s.busy = false → validPayload cmd → s.tx = k :: ks → cmd.length + 6 ≤ k →
    s.rx = dataAnswers cs ++ rest → rxbufFits s.params (s.rxbuf ++ chunkBytes cs).length = true →
    List.Forall₂ (lineYields s.params.hexLowerOk gen (presentedMatcher s)) ls its → shapeAllows shape its.length →
    s.rxbuf ++ chunkBytes cs = 0x11#8 :: (ls.flatten ++ 0x13#8 :: left) →
    ∃ cs1 cs2 r evs csum len line pay item, cs = cs1 ++ cs2 ∧ r ++ chunkBytes cs2 = left
      ∧ (∀ e ∈ evs, isDrainEvent e) ∧ rxTaken evs = chunkBytes cs1
      ∧ exec i s = .next { s with
          csum := csum
          len := len
          itemcnt := its.length
          shape := shape
          gen := gen
          seq := .idle
          rxbuf := r
          opd := cmd
          res := []
          items := its
          errtext := []
          doneF := true
          err := false
          resultPresent := decide (shape = .one ∧ its.length = 1)
          ukind := false
          kind := .ok
          frm := frameOf cmd
          line := line
          pay := pay
          item := item
          gsel := if gen then presentedMatcher s else s.gsel
          host := s.host.tail
          tx := ks
          rx := dataAnswers cs2 ++ rest
          hist := s.hist ++ .write (frameOf cmd) (cmd.length + 6) :: evs }

/-- R154, R201 (b), R203: an exchange whose first unit is DONE or a line, or whose first read fails: the error exit with the
unit's bytes as text (none for a failed read). The reads took in some of the chunks, whole and in order; with
FLUSH_CLEARS_RXBUF false RXBUF holds what was taken in but for the unit's bytes (R64, R168). -/
def Obligations.FirstUnitMustBeReady : Prop :=
  ∀ (s : State) (i : Instr) (shape : Shape) (gen : Bool) (cmd : Bytes) (k : Nat) (ks : List Nat)
    (cs : List (Byte × Bytes)) (rest : List ReadAnswer) (kind : Kind) (text : Bytes),
    isExchange i shape gen cmd → s.busy = false → validPayload cmd → s.tx = k :: ks → cmd.length + 6 ≤ k →
    s.rx = dataAnswers cs ++ rest → rxbufFits s.params (s.rxbuf ++ chunkBytes cs).length = true →
    departsAtReady (s.rxbuf ++ chunkBytes cs) rest kind text →
    ∃ cs1 cs2 evs rb, cs = cs1 ++ cs2 ∧ (∀ e ∈ evs, isDrainEvent e) ∧ rxTaken evs = chunkBytes cs1
      ∧ (s.params.flushClearsRxbuf = true → rb = [])
      ∧ (s.params.flushClearsRxbuf = false → s.rxbuf ++ chunkBytes cs1 = text ++ rb)
      ∧ exec i s = .next { s with
          csum := xorfold cmd
          len := BitVec.ofNat 7 cmd.length
          itemcnt := 0
          shape := shape
          gen := gen
          seq := .idle
          rxbuf := rb
          opd := cmd
          res := []
          items := []
          errtext := cutErrtext s.params text
          doneF := true
          err := true
          resultPresent := false
          ukind := false
          kind := kind
          frm := frameOf cmd
          raised := ⟨kind, text⟩
          gsel := if gen then presentedMatcher s else s.gsel
          host := s.host.tail
          tx := ks
          rx := s.rxNext.headD []
          rxNext := s.rxNext.tail
          hist := s.hist ++ .write (frameOf cmd) (cmd.length + 6) :: (evs ++ [.flush]) }

/-- R150 (b), R155 to R162, R192, R201 (c), R203, R212: the first departure of the answer decides: after any number of
accepted items that the call shape allows, a second READY, a line that is no frame, a rejected payload, an item too
many or a failed read ends the exchange at once through the error exit, with the kind and text of that departure, no
items, and ITEMCNT still telling how many were accepted. The reads took in some of the chunks, whole and in order; with
FLUSH_CLEARS_RXBUF false RXBUF holds what was taken in but for READY, the lines and the departing unit (R64, R168). -/
def Obligations.ExchangeFailsAtTheFirstDeparture : Prop :=
  ∀ (s : State) (i : Instr) (shape : Shape) (gen : Bool) (cmd : Bytes) (k : Nat) (ks : List Nat)
    (cs : List (Byte × Bytes)) (rest : List ReadAnswer) (ls : List Bytes) (its : List Item) (tail : Bytes)
    (kind : Kind) (text : Bytes),
    isExchange i shape gen cmd → s.busy = false → validPayload cmd → s.tx = k :: ks → cmd.length + 6 ≤ k →
    s.rx = dataAnswers cs ++ rest → rxbufFits s.params (s.rxbuf ++ chunkBytes cs).length = true →
    List.Forall₂ (lineYields s.params.hexLowerOk gen (presentedMatcher s)) ls its → shapeAllows shape its.length →
    s.rxbuf ++ chunkBytes cs = 0x11#8 :: (ls.flatten ++ tail) →
    departsInLoop s.params.hexLowerOk gen (presentedMatcher s) shape its.length tail rest kind text →
    ∃ cs1 cs2 evs rb csum len line pay item, cs = cs1 ++ cs2 ∧ (∀ e ∈ evs, isDrainEvent e)
      ∧ rxTaken evs = chunkBytes cs1 ∧ (s.params.flushClearsRxbuf = true → rb = [])
      ∧ (s.params.flushClearsRxbuf = false → s.rxbuf ++ chunkBytes cs1 = 0x11#8 :: (ls.flatten ++ text ++ rb))
      ∧ exec i s = .next { s with
          csum := csum
          len := len
          itemcnt := its.length
          shape := shape
          gen := gen
          seq := .idle
          rxbuf := rb
          opd := cmd
          res := []
          items := []
          errtext := cutErrtext s.params text
          doneF := true
          err := true
          resultPresent := false
          ukind := false
          kind := kind
          frm := frameOf cmd
          line := line
          pay := pay
          item := item
          raised := ⟨kind, text⟩
          gsel := if gen then presentedMatcher s else s.gsel
          host := s.host.tail
          tx := ks
          rx := s.rxNext.headD []
          rxNext := s.rxNext.tail
          hist := s.hist ++ .write (frameOf cmd) (cmd.length + 6) :: (evs ++ [.flush]) }

/-- R167 and the model's log 7, 26: run as far as the environment has answered, an exchange is complete or blocked on the
environment; the bound on the rows is never what stops it. -/
def Obligations.ExchangeEndsOrBlocks : Prop :=
  ∀ (s t : State) (i : Instr) (shape : Shape) (gen : Bool) (cmd : Bytes), isExchange i shape gen cmd → s.busy = false →
    exec i s = .next t → completed t ∨ blocked t

/-- R166, R153, R57 (a): the shape of the event history of a completed exchange: on success one write in full and then reads
and matcher calls; on EncodeError a flush alone; on WriteError the short write and the flush; on any other error the write in
full, reads and matcher calls, and exactly one flush, last. -/
def Obligations.ExchangeHistoryShape : Prop :=
  ∀ (s t : State) (i : Instr) (shape : Shape) (gen : Bool) (cmd : Bytes), isExchange i shape gen cmd → s.busy = false →
    exec i s = .next t → t.busy = false → ∃ new, t.hist = s.hist ++ new
      ∧ (t.kind = .ok → ∃ evs, new = .write (frameOf cmd) (frameOf cmd).length :: evs ∧ ∀ e ∈ evs, isDrainEvent e)
      ∧ (t.kind = .encodeError → new = [.flush])
      ∧ (t.kind = .writeError → ∃ n, n < (frameOf cmd).length ∧ new = [.write (frameOf cmd) n, .flush])
      ∧ (t.kind ≠ .ok → t.kind ≠ .encodeError → t.kind ≠ .writeError →
          ∃ evs, new = .write (frameOf cmd) (frameOf cmd).length :: (evs ++ [.flush]) ∧ ∀ e ∈ evs, isDrainEvent e)

/-- R232: an exchange sends nothing but (a beginning of) its command frame: never a control byte, a LF only as the last
byte of the whole frame; and ENCODE, DECODE and READ_UNIT send nothing at all. The same of each step of an operation in
progress: only the row TX sends, and what it sends is the frame kept. -/
def Obligations.ExchangeSendsOnlyItsFrame : Prop :=
  (∀ (s t : State) (i : Instr), s.busy = false → exec i s = .next t →
    (∀ shape gen cmd, isExchange i shape gen cmd → ∃ sent, txStream t.hist = txStream s.hist ++ sent
      ∧ sent <+: frameOf cmd ∧ 0x11#8 ∉ sent ∧ 0x13#8 ∉ sent
      ∧ (0x0A#8 ∈ sent → sent = frameOf cmd ∧ 0x0A#8 ∉ sent.dropLast))
    ∧ (∀ p, i = .encode p ∨ i = .decode p ∨ i = .readUnit → txStream t.hist = txStream s.hist))
  ∧ (∀ s t : State, s.busy = true → step s = .next t →
    (s.seq ≠ .tx → ¬ (s.seq = .exec ∧ s.sop = .writeUnit) → txStream t.hist = txStream s.hist)
    ∧ (s.seq = .tx → encodePayload s.opd = some s.frm → ∃ sent, txStream t.hist = txStream s.hist ++ sent
      ∧ sent <+: frameOf s.opd ∧ 0x11#8 ∉ sent ∧ 0x13#8 ∉ sent
      ∧ (0x0A#8 ∈ sent → sent = frameOf s.opd ∧ 0x0A#8 ∉ sent.dropLast)))

/-- R204, R141: the standalone operations never flush: the flush count of the transport's script stands, no flush is
recorded; ENCODE, DECODE and WRITE_UNIT read nothing from the transport and leave every byte of RXBUF, ENCODE and DECODE
interact with nothing. So when they run at once, and so in each step that resumes them in EXEC. -/
def Obligations.StandaloneOperationsDoNotFlush : Prop :=
  (∀ (s t : State) (p : Bytes) (i : Instr), s.busy = false → exec i s = .next t →
    (i = .encode p ∨ i = .decode p ∨ i = .writeUnit p ∨ i = .readUnit →
      t.rxNext = s.rxNext ∧ t.params = s.params ∧ t.shape = s.shape ∧ t.gen = s.gen ∧ t.gsel = s.gsel
        ∧ ∃ new, t.hist = s.hist ++ new ∧ Event.flush ∉ new)
    ∧ (i = .encode p ∨ i = .decode p ∨ i = .writeUnit p →
      t.rx = s.rx ∧ ∀ a, t.byteAt .rxbuf a = s.byteAt .rxbuf a)
    ∧ (i = .encode p ∨ i = .decode p → t.hist = s.hist ∧ t.tx = s.tx))
  ∧ (∀ s t : State, s.busy = true → s.seq = .exec → step s = .next t →
    (t.rxNext = s.rxNext ∧ t.params = s.params ∧ t.shape = s.shape ∧ t.gen = s.gen ∧ t.gsel = s.gsel
      ∧ ∃ new, t.hist = s.hist ++ new ∧ Event.flush ∉ new)
    ∧ (s.sop ≠ .readUnit → t.rx = s.rx ∧ ∀ a, t.byteAt .rxbuf a = s.byteAt .rxbuf a)
    ∧ (s.sop = .encode ∨ s.sop = .decode → t.hist = s.hist ∧ t.tx = s.tx))

/-- R191: the kinds each operation can end in (the dots of the table: the kinds it cannot), whether it ends in the step that
accepted it or in a later one. -/
def Obligations.KindsEachOperationCanEndIn : Prop :=
  (∀ (s t : State) (p : Bytes) (i : Instr), s.busy = false → exec i s = .next t → t.busy = false →
    (i = .encode p → t.kind = .ok ∨ t.kind = .encodeError)
    ∧ (i = .decode p → t.kind = .ok ∨ t.kind = .decodeError)
    ∧ (i = .readUnit → t.kind = .ok ∨ t.kind = .timeoutError ∨ t.kind = .readError)
    ∧ (i = .writeUnit p → t.kind = .ok ∨ t.kind = .writeError)
    ∧ (i.port = .host → t.kind ≠ .illegalOp))
  ∧ (∀ s t : State, s.Inv → s.busy = true → step s = .next t → t.busy = false →
    t.kind ≠ .illegalOp
    ∧ (s.seq = .exec → s.sop = .encode → t.kind = .ok ∨ t.kind = .encodeError)
    ∧ (s.seq = .exec → s.sop = .decode → t.kind = .ok ∨ t.kind = .decodeError)
    ∧ (s.seq = .exec → s.sop = .readUnit → t.kind = .ok ∨ t.kind = .timeoutError ∨ t.kind = .readError)
    ∧ (s.seq = .exec → s.sop = .writeUnit → t.kind = .ok ∨ t.kind = .writeError))

/-- R200, R150, R234: an operation that completes with an error has left no result: RES and ITEMS empty, RESULT_PRESENT and
UKIND 0, and ERR says so; one that completes without error has left no text; whether it completes in the step that accepted
it or in a later one. -/
def Obligations.ErrorVoidsTheResult : Prop :=
  ∀ s t : State, (s.busy = false ∧ (∃ i : Instr, i.port = .host ∧ exec i s = .next t)) ∨ (s.busy = true ∧ step s = .next t) →
    t.busy = false →
    t.doneF = true ∧ t.seq = .idle ∧ (t.err = true ↔ t.kind ≠ .ok)
      ∧ (t.kind ≠ .ok → t.res = [] ∧ t.items = [] ∧ t.resultPresent = false ∧ t.ukind = false)
      ∧ (t.kind = .ok → t.errtext = [])

/-! ### What holds of every step -/

/-- R24, R26, R61, R181: what was latched at acceptance is constant while the operation runs, and so is what the build
fixed. -/
def Obligations.LatchedOperandsAreConstant : Prop :=
  ∀ s t : State, s.busy = true → step s = .next t →
    t.opd = s.opd ∧ t.shape = s.shape ∧ t.gen = s.gen ∧ t.gsel = s.gsel ∧ t.sop = s.sop ∧ t.params = s.params
      ∧ t.host = s.host

/-- R165, R209, R229: nothing the host does reaches a running operation: with any other list of operations to come, the
step is the same but for that list. -/
def Obligations.HostCannotReachARunningOperation : Prop :=
  ∀ (s t : State) (h : List Command), s.busy = true → step s = .next t →
    step { s with host := h } = .next { t with host := h }

/-- R35, R54: no step takes an interaction back: the event history only grows at its end, and so do the TX stream and what
has been taken in; the parameters of the build never change. -/
def Obligations.HistoryOnlyGrows : Prop :=
  ∀ s t : State, step s = .next t →
    s.hist <+: t.hist ∧ txStream s.hist <+: txStream t.hist ∧ rxTaken s.hist <+: rxTaken t.hist ∧ t.params = s.params

/-- R220: the invariant of the machine holds after reset. -/
def Obligations.ResetSatisfiesTheInvariant : Prop :=
  State.reset.Inv ∧ ∀ s : State, s.applyReset.Inv

/-- Every step keeps the invariant of the machine (R22, R23, R28, R30, R32, R33, R44, R63, R150, R200), from every state that has
it, whatever the environment answers. -/
def Obligations.StepKeepsTheInvariant : Prop :=
  ∀ s t : State, s.Inv → step s = .next t → t.Inv

/-! ### The host's write, and the rows of EXEC -/

/-- R36, R61, R89, R165 (first row): what a write to csr[0] of an idle block leaves. The operation is accepted at once: its
operand, and of an exchange the call shape and the matcher presented, are latched, the outcome of the operation before is
cleared, BUSY is 1. The steps that follow then run what exec runs of a command next in the host list (log 7, 8): the row EXEC
of a standalone operation, the rows of an exchange. A reserved word completes at once with IllegalOp. ITEMCNT: R206, log 19;
sop, gsel: log 10. -/
def Obligations.WrittenWordStartsTheOperation : Prop :=
  ∀ (s : State) (v : HostWord) (opd : Bytes) (g : Matcher), s.busy = false →
    let w := v.extractLsb' 0 8
    let t := csrWrite s 0#3 v opd g
    let queued := { s with host := ⟨w, opd, g⟩ :: s.host }
    (∀ i op p, decodeOp w opd = .ok i → isStandalone i op p →
      t = { s with
        itemcnt := 0, seq := .exec, opd := p, res := [], items := [], errtext := [], busy := true, doneF := false
        err := false, resultPresent := false, ukind := false, kind := .ok, sop := op }
      ∧ step t = exec i queued)
    ∧ (∀ i shape gen cmd, decodeOp w opd = .ok i → isExchange i shape gen cmd →
      t = { s with
        itemcnt := 0, shape := shape, gen := gen, seq := .enc, opd := cmd, res := [], items := [], errtext := []
        busy := true, doneF := false, err := false, resultPresent := false, ukind := false, kind := .ok
        gsel := if gen then g else s.gsel }
      ∧ drive (rowBound s) t = exec i queued)
    ∧ (∀ e, decodeOp w opd = .error e → e.isReserved = true → t = { s with
        seq := .idle, res := [], items := [], errtext := [], doneF := true, err := true
        resultPresent := false, ukind := false, kind := .illegalOp })

/-- R30, R112, R114, R135: the rows of EXEC of a standalone operation that has been accepted (READ_UNIT: see the wire rows and
the rows that read). ENCODE and DECODE complete; WRITE_UNIT completes on the transport's answer and waits without one (log 2,
4). -/
def Obligations.ExecRowsOfTheSequencer : Prop :=
  ∀ s : State, s.busy = true → s.seq = .exec →
    (s.sop = .encode → validPayload s.opd → step s = .next { s with
      csum := xorfold s.opd, len := BitVec.ofNat 7 s.opd.length, seq := .idle
      res := 0x24#8 :: (s.opd ++ [0x2A#8, hexhi (xorfold s.opd), hexlo (xorfold s.opd), 0x0D#8, 0x0A#8])
      errtext := [], busy := false, doneF := true, err := false, resultPresent := true, ukind := false, kind := .ok })
    ∧ (s.sop = .encode → ¬ validPayload s.opd → ∃ c, step s = .next { s with
      csum := c, len := BitVec.ofNat 7 (min s.opd.length 80), seq := .idle, res := [], items := []
      errtext := cutErrtext s.params s.opd, busy := false, doneF := true, err := true, resultPresent := false
      ukind := false, kind := .encodeError })
    ∧ (∀ p, s.sop = .decode → decodeFrame s.params.hexLowerOk s.opd = .ok p → step s = .next { s with
      csum := xorfold p, len := BitVec.ofNat 7 p.length, seq := .idle, res := p, errtext := [], busy := false
      doneF := true, err := false, resultPresent := true, ukind := false, kind := .ok })
    ∧ (s.sop = .decode → (∀ p, decodeFrame s.params.hexLowerOk s.opd ≠ .ok p) → ∃ c n, step s = .next { s with
      csum := c, len := n, seq := .idle, res := [], items := [], errtext := cutErrtext s.params s.opd, busy := false
      doneF := true, err := true, resultPresent := false, ukind := false, kind := .decodeError })
    ∧ (∀ k ks, s.sop = .writeUnit → s.tx = k :: ks → s.opd.length ≤ k → step s = .next { s with
      tx := ks, hist := s.hist ++ [.write s.opd s.opd.length], seq := .idle, errtext := [], busy := false
      doneF := true, err := false, kind := .ok })
    ∧ (∀ k ks, s.sop = .writeUnit → s.tx = k :: ks → k < s.opd.length → step s = .next { s with
      tx := ks, hist := s.hist ++ [.write s.opd k], seq := .idle, res := [], items := [], errtext := [], busy := false
      doneF := true, err := true, resultPresent := false, ukind := false, kind := .writeError })
    ∧ (s.sop = .writeUnit → s.tx = [] → step s = .next s)

/-- Every write of the host keeps the invariant of the machine (R24, R32, R33, R36, R89, R209). -/
def Obligations.HostWriteKeepsTheInvariant : Prop :=
  ∀ (s : State) (i : BitVec 3) (v : HostWord) (opd : Bytes) (g : Matcher), s.Inv → (csrWrite s i v opd g).Inv
end

