-- ==== Sys2Proof/Laws/Codec.lean ====
section
/-! SUPPORT. What the unit cutter and the frame codec do, said once: callers cite these and do not unfold splitLine,
cutUnit, frameShape, encodePayload or decodeFrame. -/

namespace Sys2Proof

/-! ### The constants are distinct -/

@[simp] theorem done_ne_ready : ¬ Config.done = Config.ready := by decide
@[simp] theorem ready_ne_done : ¬ Config.ready = Config.done := by decide
@[simp] theorem lf_ne_ready : ¬ Config.lf = Config.ready := by decide
@[simp] theorem lf_ne_done : ¬ Config.lf = Config.done := by decide

/-! ### The line cut -/

theorem splitLine_eq_none_iff (bs : Bytes) : splitLine bs = none ↔ Config.lf ∉ bs := by
  induction bs with
  | nil => simp [splitLine]
  | cons b bs ih =>
    by_cases h : b = Config.lf
    · simp [splitLine, h]
    · have h' : Config.lf ≠ b := fun e => h e.symm
      cases hs : splitLine bs with
      | none => simp [splitLine, h, hs, h', ih.mp hs]
      | some q =>
        have : Config.lf ∈ bs := by
          by_contra hn
          rw [ih.mpr hn] at hs
          cases hs
        simp [splitLine, h, hs, this]

theorem splitLine_append (body rest : Bytes) (h : Config.lf ∉ body) :
    splitLine (body ++ Config.lf :: rest) = some (body ++ [Config.lf], rest) := by
  induction body with
  | nil => simp [splitLine]
  | cons b bs ih =>
    have hb : b ≠ Config.lf := fun e => h (by simp [e])
    have hbs : Config.lf ∉ bs := fun e => h (by simp [e])
    simp [splitLine, hb, ih hbs]

theorem splitLine_eq_some (bs l rest : Bytes) (h : splitLine bs = some (l, rest)) :
    ∃ body, l = body ++ [Config.lf] ∧ Config.lf ∉ body ∧ bs = body ++ Config.lf :: rest := by
  have hin : Config.lf ∈ bs := by
    by_contra hn
    rw [(splitLine_eq_none_iff bs).mpr hn] at h
    cases h
  obtain ⟨body, tail, rfl, hb⟩ := List.eq_append_cons_of_mem hin
  rw [splitLine_append body tail hb] at h
  cases h
  exact ⟨body, rfl, hb, rfl⟩

/-! ### Lines -/

theorem lineOk_iff (l : Bytes) : lineOk l = true ↔
    ∃ body, l = body ++ [Config.lf] ∧ Config.lf ∉ body ∧ l.head? ≠ some Config.ready ∧ l.head? ≠ some Config.done := by
  constructor
  · intro h
    simp only [lineOk, lineEndsInLf, lineHasNoInnerLf, lineHeadNotCtl, Bool.and_eq_true, beq_iff_eq,
      Bool.not_eq_true', bne_iff_ne, ne_eq] at h
    obtain ⟨⟨h1, h2⟩, h3, h4⟩ := h
    obtain ⟨body, rfl⟩ : ∃ body, l = body ++ [Config.lf] := by
      have hne : l ≠ [] := by rintro rfl; simp at h1
      refine ⟨l.dropLast, ?_⟩
      have := List.dropLast_append_getLast hne
      rw [List.getLast?_eq_some_getLast hne] at h1
      simp only [Option.some.injEq] at h1
      rw [h1] at this
      exact this.symm
    refine ⟨body, rfl, ?_, h3, h4⟩
    intro hm
    simp only [List.dropLast_concat, Bool.eq_false_iff] at h2
    exact h2 (by simpa using hm)
  · rintro ⟨body, rfl, hb, h3, h4⟩
    simp only [lineOk, lineEndsInLf, lineHasNoInnerLf, lineHeadNotCtl]
    simp [hb]
    exact ⟨by simpa using h3, by simpa using h4⟩

/-! ### The unit cutter -/

/-- R132: everything the unit cutter can answer. -/
theorem cutUnit_eq_some_iff (bs rest : Bytes) (u : RxUnit) : cutUnit bs = some (u, rest) ↔
    bs = u.bytes ++ rest ∧ (∀ l, u = .line l → lineOk l = true) := by
  cases bs with
  | nil =>
    cases u <;> simp [cutUnit, RxUnit.bytes]
    rename_i l
    rintro rfl _
    simp [lineOk, lineEndsInLf]
  | cons b bs =>
    by_cases h1 : b = Config.ready
    · subst h1
      cases u with
      | ready => simp [cutUnit, RxUnit.bytes]
      | done => simp [cutUnit, RxUnit.bytes]
      | line l =>
        simp only [cutUnit, RxUnit.bytes, if_true, RxUnit.line.injEq, forall_eq', Option.some.injEq, Prod.mk.injEq,
          reduceCtorEq, false_and, false_iff, not_and]
        intro h hl
        obtain ⟨body, rfl, _, hh, _⟩ := (lineOk_iff l).mp hl
        cases body <;> simp_all
    by_cases h2 : b = Config.done
    · subst h2
      cases u with
      | ready => simp [cutUnit, RxUnit.bytes]
      | done => simp [cutUnit, RxUnit.bytes]
      | line l =>
        simp only [cutUnit, RxUnit.bytes, if_true, RxUnit.line.injEq, forall_eq', Option.some.injEq, Prod.mk.injEq,
          reduceCtorEq, false_and, if_neg h1, false_iff, not_and]
        intro h hl
        obtain ⟨body, rfl, _, _, hh⟩ := (lineOk_iff l).mp hl
        cases body <;> simp_all
    simp only [cutUnit, if_neg h1, if_neg h2]
    constructor
    · intro h
      cases hs : splitLine (b :: bs) with
      | none => rw [hs] at h; cases h
      | some q =>
        obtain ⟨l, r⟩ := q
        rw [hs] at h
        simp only [Option.some.injEq, Prod.mk.injEq] at h
        obtain ⟨rfl, rfl⟩ := h
        obtain ⟨body, rfl, hb, he⟩ := splitLine_eq_some _ _ _ hs
        refine ⟨by simp [RxUnit.bytes, he], ?_⟩
        rintro _ ⟨⟩
        rw [lineOk_iff]
        refine ⟨body, rfl, hb, ?_⟩
        cases body with
        | nil => simp only [List.nil_append, List.cons.injEq] at he ⊢; simp
        | cons x xs =>
          simp only [List.cons_append, List.cons.injEq] at he
          obtain ⟨rfl, _⟩ := he
          simpa using ⟨h1, h2⟩
    · rintro ⟨he, hl⟩
      cases u with
      | ready => simp only [RxUnit.bytes, List.cons_append, List.cons.injEq] at he; exact absurd he.1 h1
      | done => simp only [RxUnit.bytes, List.cons_append, List.cons.injEq] at he; exact absurd he.1 h2
      | line l =>
        obtain ⟨body, rfl, hb, _, _⟩ := (lineOk_iff l).mp (hl l rfl)
        have : b :: bs = body ++ Config.lf :: rest := by simpa [RxUnit.bytes] using he
        rw [this, splitLine_append body rest hb]

/-- R85: when no unit is whole. -/
theorem cutUnit_eq_none_iff (bs : Bytes) : cutUnit bs = none ↔
    bs.head? ≠ some Config.ready ∧ bs.head? ≠ some Config.done ∧ Config.lf ∉ bs := by
  cases bs with
  | nil => simp [cutUnit]
  | cons b bs =>
    by_cases h1 : b = Config.ready
    · simp [cutUnit, h1]
    by_cases h2 : b = Config.done
    · simp [cutUnit, h2]
    have := splitLine_eq_none_iff (b :: bs)
    simp only [cutUnit, List.head?_cons, ne_eq, Option.some.injEq, h1, h2, not_false_eq_true, true_and, if_false]
    rw [← this]
    cases splitLine (b :: bs) <;> simp

/-- R52: what is whole at the head stays whole however much arrives after it. -/
theorem cutUnit_append (bs rest more : Bytes) (u : RxUnit) (h : cutUnit bs = some (u, rest)) :
    cutUnit (bs ++ more) = some (u, rest ++ more) := by
  rw [cutUnit_eq_some_iff] at h ⊢
  exact ⟨by rw [h.1, List.append_assoc], h.2⟩

/-- The unit takes as many bytes from the head as it has. -/
theorem cutUnit_drop (bs rest : Bytes) (u : RxUnit) (h : cutUnit bs = some (u, rest)) :
    bs.drop u.bytes.length = rest := by
  rw [((cutUnit_eq_some_iff _ _ _).mp h).1, List.drop_left]

theorem unit_bytes_pos (bs rest : Bytes) (u : RxUnit) (h : cutUnit bs = some (u, rest)) : 0 < u.bytes.length := by
  have := ((cutUnit_eq_some_iff _ _ _).mp h).2
  cases u with
  | ready => simp [RxUnit.bytes]
  | done => simp [RxUnit.bytes]
  | line l =>
    obtain ⟨body, rfl, _⟩ := (lineOk_iff l).mp (this l rfl)
    simp [RxUnit.bytes]

/-! ### Encode -/

theorem printable_iff (b : Byte) : printable b = true ↔ 0x20#8 ≤ b ∧ b ≤ 0x7E#8 := by
  simp [printable]

/-- R112: when Encode answers, and what. -/
theorem encodePayload_eq_some_iff (p f : Bytes) : encodePayload p = some f ↔
    1 ≤ p.length ∧ p.length ≤ 79 ∧ (∀ b ∈ p, 0x20#8 ≤ b ∧ b ≤ 0x7E#8) ∧ f = frameOf p := by
  simp only [encodePayload, Config.payloadMax]
  by_cases h0 : p.length = 0
  · simp [h0]
  by_cases h1 : p.length > 79
  · simp only [if_neg h0, if_pos h1, reduceCtorEq, false_iff, not_and]
    omega
  by_cases h2 : p.any (fun b => !printable b) = true
  · simp only [if_neg h0, if_neg h1, if_pos h2, reduceCtorEq, false_iff, not_and]
    intro _ _ h
    obtain ⟨b, hb, hp⟩ := List.any_eq_true.mp h2
    have := (printable_iff b).mpr (h b hb)
    simp [this] at hp
  · simp only [if_neg h0, if_neg h1, if_neg h2, Option.some.injEq]
    constructor
    · rintro rfl
      refine ⟨by omega, by omega, ?_, rfl⟩
      intro b hb
      rw [← printable_iff]
      by_contra hp
      exact h2 (List.any_eq_true.mpr ⟨b, hb, by simpa using hp⟩)
    · rintro ⟨_, _, _, rfl⟩
      rfl

theorem encodePayload_eq_none_iff (p : Bytes) : encodePayload p = none ↔
    ¬ (1 ≤ p.length ∧ p.length ≤ 79 ∧ ∀ b ∈ p, 0x20#8 ≤ b ∧ b ≤ 0x7E#8) := by
  constructor
  · intro h hp
    have := (encodePayload_eq_some_iff p (frameOf p)).mpr ⟨hp.1, hp.2.1, hp.2.2, rfl⟩
    rw [h] at this
    cases this
  · intro h
    cases he : encodePayload p with
    | none => rfl
    | some f =>
      have := (encodePayload_eq_some_iff p f).mp he
      exact absurd ⟨this.1, this.2.1, this.2.2.1⟩ h

@[simp] theorem frameOf_length (p : Bytes) : (frameOf p).length = p.length + 6 := by
  simp [frameOf]

/-! ### Decode -/

/-- R114: when a byte sequence has the shape of a frame, and the payload it carries. -/
theorem frameShape_eq_some_iff (lower : Bool) (f p : Bytes) : frameShape lower f = some p ↔
    ∃ h l, f = Config.sof :: (p ++ [Config.sep, h, l, Config.cr, Config.lf]) ∧ 1 ≤ p.length ∧ p.length ≤ 79
      ∧ ishex lower h = true ∧ ishex lower l = true := by
  constructor
  · intro h
    simp only [frameShape, Config.frameMin, Config.frameMax] at h
    by_cases hL : f.length < 7 ∨ f.length > 85
    · simp [hL] at h
    rw [if_neg hL] at h
    obtain ⟨x, f', rfl⟩ : ∃ x f', f = x :: f' := by
      cases f with
      | nil => simp at hL
      | cons x f' => exact ⟨x, f', rfl⟩
    obtain ⟨q, tail, rfl, ht⟩ : ∃ q tail, f' = q ++ tail ∧ tail.length = 5 := by
      refine ⟨f'.take (f'.length - 5), f'.drop (f'.length - 5), (List.take_append_drop _ _).symm, ?_⟩
      simp at hL ⊢
      omega
    match tail, ht with
    | [a, b, c, d, e], _ =>
      have e1 : (x :: (q ++ [a, b, c, d, e])).length = q.length + 6 := by simp
      rw [e1] at h
      have g (k : Nat) (y : Byte) (hk : [a, b, c, d, e][k]? = some y) :
          (x :: (q ++ [a, b, c, d, e])).getD (q.length + 1 + k) 0x00#8 = y := by
        have e2 : q.length + 1 + k = (q.length + k) + 1 := by omega
        rw [e2, List.getD_cons_succ, List.getD_eq_getElem?_getD, List.getElem?_append_right (by omega)]
        simp [hk]
      have g0 := g 0 a rfl
      have g1 := g 1 b rfl
      have g2 := g 2 c rfl
      have g3 := g 3 d rfl
      have g4 := g 4 e rfl
      have i5 : q.length + 6 - 5 = q.length + 1 + 0 := by omega
      have i4 : q.length + 6 - 4 = q.length + 1 + 1 := by omega
      have i3 : q.length + 6 - 3 = q.length + 1 + 2 := by omega
      have i2 : q.length + 6 - 2 = q.length + 1 + 3 := by omega
      have i1 : q.length + 6 - 1 = q.length + 1 + 4 := by omega
      rw [i5, i4, i3, i2, i1, g0, g1, g2, g3, g4] at h
      have hx : (x :: (q ++ [a, b, c, d, e])).getD 0 0x00#8 = x := rfl
      rw [hx] at h
      repeat' (split at h; · simp at h)
      simp only [Option.some.injEq] at h
      have hq : q = p := by
        rw [← h]
        simp
      subst hq
      rename_i h1 h2 h3 h4 h5 h6
      simp only [ne_eq, Decidable.not_not, Bool.not_eq_true', Bool.not_eq_false] at h1 h2 h3 h4 h5 h6
      refine ⟨b, c, by rw [h1, h2, h5, h6], ?_, ?_, h3, h4⟩ <;> simp at hL <;> omega
  · rintro ⟨h, l, rfl, h1, h2, h3, h4⟩
    simp only [frameShape, Config.frameMin, Config.frameMax]
    have e1 : (Config.sof :: (p ++ [Config.sep, h, l, Config.cr, Config.lf])).length = p.length + 6 := by simp
    rw [e1]
    have g (k : Nat) (y : Byte) (hk : [Config.sep, h, l, Config.cr, Config.lf][k]? = some y) :
        (Config.sof :: (p ++ [Config.sep, h, l, Config.cr, Config.lf])).getD (p.length + 1 + k) 0x00#8 = y := by
      have e2 : p.length + 1 + k = (p.length + k) + 1 := by omega
      rw [e2, List.getD_cons_succ, List.getD_eq_getElem?_getD, List.getElem?_append_right (by omega)]
      simp [hk]
    have i5 : p.length + 6 - 5 = p.length + 1 + 0 := by omega
    have i4 : p.length + 6 - 4 = p.length + 1 + 1 := by omega
    have i3 : p.length + 6 - 3 = p.length + 1 + 2 := by omega
    have i2 : p.length + 6 - 2 = p.length + 1 + 3 := by omega
    have i1 : p.length + 6 - 1 = p.length + 1 + 4 := by omega
    rw [i5, i4, i3, i2, i1, g 0 _ rfl, g 1 _ rfl, g 2 _ rfl, g 3 _ rfl, g 4 _ rfl]
    have hL : ¬ (p.length + 6 < 7 ∨ p.length + 6 > 85) := by omega
    simp [hL, h3, h4]

/-- R83: the two digits a byte sequence of the frame layout holds. -/
theorem checksumField_layout (p : Bytes) (h l : Byte) :
    checksumField (Config.sof :: (p ++ [Config.sep, h, l, Config.cr, Config.lf])) = 16 * hexval h + hexval l := by
  have g (k : Nat) (y : Byte) (hk : [Config.sep, h, l, Config.cr, Config.lf][k]? = some y) :
      (Config.sof :: (p ++ [Config.sep, h, l, Config.cr, Config.lf])).getD (p.length + 1 + k) 0x00#8 = y := by
    have e2 : p.length + 1 + k = (p.length + k) + 1 := by omega
    rw [e2, List.getD_cons_succ, List.getD_eq_getElem?_getD, List.getElem?_append_right (by omega)]
    simp [hk]
  have e1 : (Config.sof :: (p ++ [Config.sep, h, l, Config.cr, Config.lf])).length = p.length + 6 := by simp
  have i4 : p.length + 6 - 4 = p.length + 1 + 1 := by omega
  have i3 : p.length + 6 - 3 = p.length + 1 + 2 := by omega
  rw [checksumField, e1, i4, i3, g 1 _ rfl, g 2 _ rfl]

/-- R114: when Decode answers a payload. -/
theorem decodeFrame_eq_ok_iff (lower : Bool) (f p : Bytes) : decodeFrame lower f = .ok p ↔
    ∃ h l, f = Config.sof :: (p ++ [Config.sep, h, l, Config.cr, Config.lf]) ∧ 1 ≤ p.length ∧ p.length ≤ 79
      ∧ ishex lower h = true ∧ ishex lower l = true ∧ (xorfold p).toNat = 16 * hexval h + hexval l := by
  constructor
  · intro hd
    cases hs : frameShape lower f with
    | none => simp [decodeFrame, hs] at hd
    | some q =>
      simp only [decodeFrame, hs] at hd
      split at hd
      · rename_i hc
        cases hd
        obtain ⟨h, l, rfl, h1, h2, h3, h4⟩ := (frameShape_eq_some_iff _ _ _).mp hs
        rw [checksumField_layout] at hc
        exact ⟨h, l, rfl, h1, h2, h3, h4, hc⟩
      · cases hd
  · rintro ⟨h, l, rfl, h1, h2, h3, h4, hc⟩
    have hs := (frameShape_eq_some_iff lower _ p).mpr ⟨h, l, rfl, h1, h2, h3, h4⟩
    simp [decodeFrame, hs, checksumField_layout, hc]

/-- R83, R9: the digits of a byte are upper-case hex digits and read back as the byte. -/
theorem hex_digits_read_back (lower : Bool) (c : Byte) :
    ishex lower (hexhi c) = true ∧ ishex lower (hexlo c) = true ∧ c.toNat = 16 * hexval (hexhi c) + hexval (hexlo c) := by
  have h : ∀ c : Byte, ishex false (hexhi c) = true ∧ ishex false (hexlo c) = true
      ∧ c.toNat = 16 * hexval (hexhi c) + hexval (hexlo c) := by decide
  obtain ⟨h1, h2, h3⟩ := h c
  refine ⟨?_, ?_, h3⟩
  · simp only [ishex, Bool.false_and, Bool.or_false] at h1 ⊢
    simp [h1]
  · simp only [ishex, Bool.false_and, Bool.or_false] at h2 ⊢
    simp [h2]

end Sys2Proof
end

