-- ==== Sys2Proof/Laws/State.lean ====
section
/-! SUPPORT. One lemma per field of State for each shared update of Machine/Ops.lean and Machine/Flags.lean, so that no
later proof unfolds a record update. -/

namespace Sys2Proof.Machine

variable (s : State)

/-! ### dropCommand -/

@[simp] theorem dropCommand_csum : (dropCommand s).csum = s.csum := rfl
@[simp] theorem dropCommand_len : (dropCommand s).len = s.len := rfl
@[simp] theorem dropCommand_itemcnt : (dropCommand s).itemcnt = s.itemcnt := rfl
@[simp] theorem dropCommand_shape : (dropCommand s).shape = s.shape := rfl
@[simp] theorem dropCommand_gen : (dropCommand s).gen = s.gen := rfl
@[simp] theorem dropCommand_seq : (dropCommand s).seq = s.seq := rfl
@[simp] theorem dropCommand_rxbuf : (dropCommand s).rxbuf = s.rxbuf := rfl
@[simp] theorem dropCommand_opd : (dropCommand s).opd = s.opd := rfl
@[simp] theorem dropCommand_res : (dropCommand s).res = s.res := rfl
@[simp] theorem dropCommand_items : (dropCommand s).items = s.items := rfl
@[simp] theorem dropCommand_errtext : (dropCommand s).errtext = s.errtext := rfl
@[simp] theorem dropCommand_busy : (dropCommand s).busy = s.busy := rfl
@[simp] theorem dropCommand_doneF : (dropCommand s).doneF = s.doneF := rfl
@[simp] theorem dropCommand_err : (dropCommand s).err = s.err := rfl
@[simp] theorem dropCommand_resultPresent : (dropCommand s).resultPresent = s.resultPresent := rfl
@[simp] theorem dropCommand_ukind : (dropCommand s).ukind = s.ukind := rfl
@[simp] theorem dropCommand_kind : (dropCommand s).kind = s.kind := rfl
@[simp] theorem dropCommand_sop : (dropCommand s).sop = s.sop := rfl
@[simp] theorem dropCommand_frm : (dropCommand s).frm = s.frm := rfl
@[simp] theorem dropCommand_line : (dropCommand s).line = s.line := rfl
@[simp] theorem dropCommand_pay : (dropCommand s).pay = s.pay := rfl
@[simp] theorem dropCommand_item : (dropCommand s).item = s.item := rfl
@[simp] theorem dropCommand_raised : (dropCommand s).raised = s.raised := rfl
@[simp] theorem dropCommand_gsel : (dropCommand s).gsel = s.gsel := rfl
@[simp] theorem dropCommand_params : (dropCommand s).params = s.params := rfl
@[simp] theorem dropCommand_host : (dropCommand s).host = s.host.tail := rfl
@[simp] theorem dropCommand_rx : (dropCommand s).rx = s.rx := rfl
@[simp] theorem dropCommand_rxNext : (dropCommand s).rxNext = s.rxNext := rfl
@[simp] theorem dropCommand_tx : (dropCommand s).tx = s.tx := rfl
@[simp] theorem dropCommand_hist : (dropCommand s).hist = s.hist := rfl

/-! ### dropRx -/

@[simp] theorem dropRx_csum (n : Nat) : (dropRx n s).csum = s.csum := rfl
@[simp] theorem dropRx_len (n : Nat) : (dropRx n s).len = s.len := rfl
@[simp] theorem dropRx_itemcnt (n : Nat) : (dropRx n s).itemcnt = s.itemcnt := rfl
@[simp] theorem dropRx_shape (n : Nat) : (dropRx n s).shape = s.shape := rfl
@[simp] theorem dropRx_gen (n : Nat) : (dropRx n s).gen = s.gen := rfl
@[simp] theorem dropRx_seq (n : Nat) : (dropRx n s).seq = s.seq := rfl
@[simp] theorem dropRx_rxbuf (n : Nat) : (dropRx n s).rxbuf = s.rxbuf.drop n := rfl
@[simp] theorem dropRx_opd (n : Nat) : (dropRx n s).opd = s.opd := rfl
@[simp] theorem dropRx_res (n : Nat) : (dropRx n s).res = s.res := rfl
@[simp] theorem dropRx_items (n : Nat) : (dropRx n s).items = s.items := rfl
@[simp] theorem dropRx_errtext (n : Nat) : (dropRx n s).errtext = s.errtext := rfl
@[simp] theorem dropRx_busy (n : Nat) : (dropRx n s).busy = s.busy := rfl
@[simp] theorem dropRx_doneF (n : Nat) : (dropRx n s).doneF = s.doneF := rfl
@[simp] theorem dropRx_err (n : Nat) : (dropRx n s).err = s.err := rfl
@[simp] theorem dropRx_resultPresent (n : Nat) : (dropRx n s).resultPresent = s.resultPresent := rfl
@[simp] theorem dropRx_ukind (n : Nat) : (dropRx n s).ukind = s.ukind := rfl
@[simp] theorem dropRx_kind (n : Nat) : (dropRx n s).kind = s.kind := rfl
@[simp] theorem dropRx_sop (n : Nat) : (dropRx n s).sop = s.sop := rfl
@[simp] theorem dropRx_frm (n : Nat) : (dropRx n s).frm = s.frm := rfl
@[simp] theorem dropRx_line (n : Nat) : (dropRx n s).line = s.line := rfl
@[simp] theorem dropRx_pay (n : Nat) : (dropRx n s).pay = s.pay := rfl
@[simp] theorem dropRx_item (n : Nat) : (dropRx n s).item = s.item := rfl
@[simp] theorem dropRx_raised (n : Nat) : (dropRx n s).raised = s.raised := rfl
@[simp] theorem dropRx_gsel (n : Nat) : (dropRx n s).gsel = s.gsel := rfl
@[simp] theorem dropRx_params (n : Nat) : (dropRx n s).params = s.params := rfl
@[simp] theorem dropRx_host (n : Nat) : (dropRx n s).host = s.host := rfl
@[simp] theorem dropRx_rx (n : Nat) : (dropRx n s).rx = s.rx := rfl
@[simp] theorem dropRx_rxNext (n : Nat) : (dropRx n s).rxNext = s.rxNext := rfl
@[simp] theorem dropRx_tx (n : Nat) : (dropRx n s).tx = s.tx := rfl
@[simp] theorem dropRx_hist (n : Nat) : (dropRx n s).hist = s.hist := rfl

/-! ### pushRx -/

@[simp] theorem pushRx_csum (p : Bytes) : (pushRx p s).csum = s.csum := rfl
@[simp] theorem pushRx_len (p : Bytes) : (pushRx p s).len = s.len := rfl
@[simp] theorem pushRx_itemcnt (p : Bytes) : (pushRx p s).itemcnt = s.itemcnt := rfl
@[simp] theorem pushRx_shape (p : Bytes) : (pushRx p s).shape = s.shape := rfl
@[simp] theorem pushRx_gen (p : Bytes) : (pushRx p s).gen = s.gen := rfl
@[simp] theorem pushRx_seq (p : Bytes) : (pushRx p s).seq = s.seq := rfl
@[simp] theorem pushRx_rxbuf (p : Bytes) : (pushRx p s).rxbuf = s.rxbuf ++ p := rfl
@[simp] theorem pushRx_opd (p : Bytes) : (pushRx p s).opd = s.opd := rfl
@[simp] theorem pushRx_res (p : Bytes) : (pushRx p s).res = s.res := rfl
@[simp] theorem pushRx_items (p : Bytes) : (pushRx p s).items = s.items := rfl
@[simp] theorem pushRx_errtext (p : Bytes) : (pushRx p s).errtext = s.errtext := rfl
@[simp] theorem pushRx_busy (p : Bytes) : (pushRx p s).busy = s.busy := rfl
@[simp] theorem pushRx_doneF (p : Bytes) : (pushRx p s).doneF = s.doneF := rfl
@[simp] theorem pushRx_err (p : Bytes) : (pushRx p s).err = s.err := rfl
@[simp] theorem pushRx_resultPresent (p : Bytes) : (pushRx p s).resultPresent = s.resultPresent := rfl
@[simp] theorem pushRx_ukind (p : Bytes) : (pushRx p s).ukind = s.ukind := rfl
@[simp] theorem pushRx_kind (p : Bytes) : (pushRx p s).kind = s.kind := rfl
@[simp] theorem pushRx_sop (p : Bytes) : (pushRx p s).sop = s.sop := rfl
@[simp] theorem pushRx_frm (p : Bytes) : (pushRx p s).frm = s.frm := rfl
@[simp] theorem pushRx_line (p : Bytes) : (pushRx p s).line = s.line := rfl
@[simp] theorem pushRx_pay (p : Bytes) : (pushRx p s).pay = s.pay := rfl
@[simp] theorem pushRx_item (p : Bytes) : (pushRx p s).item = s.item := rfl
@[simp] theorem pushRx_raised (p : Bytes) : (pushRx p s).raised = s.raised := rfl
@[simp] theorem pushRx_gsel (p : Bytes) : (pushRx p s).gsel = s.gsel := rfl
@[simp] theorem pushRx_params (p : Bytes) : (pushRx p s).params = s.params := rfl
@[simp] theorem pushRx_host (p : Bytes) : (pushRx p s).host = s.host := rfl
@[simp] theorem pushRx_rx (p : Bytes) : (pushRx p s).rx = s.rx := rfl
@[simp] theorem pushRx_rxNext (p : Bytes) : (pushRx p s).rxNext = s.rxNext := rfl
@[simp] theorem pushRx_tx (p : Bytes) : (pushRx p s).tx = s.tx := rfl
@[simp] theorem pushRx_hist (p : Bytes) : (pushRx p s).hist = s.hist := rfl

/-! ### record -/

@[simp] theorem record_csum (e : Event) : (record e s).csum = s.csum := rfl
@[simp] theorem record_len (e : Event) : (record e s).len = s.len := rfl
@[simp] theorem record_itemcnt (e : Event) : (record e s).itemcnt = s.itemcnt := rfl
@[simp] theorem record_shape (e : Event) : (record e s).shape = s.shape := rfl
@[simp] theorem record_gen (e : Event) : (record e s).gen = s.gen := rfl
@[simp] theorem record_seq (e : Event) : (record e s).seq = s.seq := rfl
@[simp] theorem record_rxbuf (e : Event) : (record e s).rxbuf = s.rxbuf := rfl
@[simp] theorem record_opd (e : Event) : (record e s).opd = s.opd := rfl
@[simp] theorem record_res (e : Event) : (record e s).res = s.res := rfl
@[simp] theorem record_items (e : Event) : (record e s).items = s.items := rfl
@[simp] theorem record_errtext (e : Event) : (record e s).errtext = s.errtext := rfl
@[simp] theorem record_busy (e : Event) : (record e s).busy = s.busy := rfl
@[simp] theorem record_doneF (e : Event) : (record e s).doneF = s.doneF := rfl
@[simp] theorem record_err (e : Event) : (record e s).err = s.err := rfl
@[simp] theorem record_resultPresent (e : Event) : (record e s).resultPresent = s.resultPresent := rfl
@[simp] theorem record_ukind (e : Event) : (record e s).ukind = s.ukind := rfl
@[simp] theorem record_kind (e : Event) : (record e s).kind = s.kind := rfl
@[simp] theorem record_sop (e : Event) : (record e s).sop = s.sop := rfl
@[simp] theorem record_frm (e : Event) : (record e s).frm = s.frm := rfl
@[simp] theorem record_line (e : Event) : (record e s).line = s.line := rfl
@[simp] theorem record_pay (e : Event) : (record e s).pay = s.pay := rfl
@[simp] theorem record_item (e : Event) : (record e s).item = s.item := rfl
@[simp] theorem record_raised (e : Event) : (record e s).raised = s.raised := rfl
@[simp] theorem record_gsel (e : Event) : (record e s).gsel = s.gsel := rfl
@[simp] theorem record_params (e : Event) : (record e s).params = s.params := rfl
@[simp] theorem record_host (e : Event) : (record e s).host = s.host := rfl
@[simp] theorem record_rx (e : Event) : (record e s).rx = s.rx := rfl
@[simp] theorem record_rxNext (e : Event) : (record e s).rxNext = s.rxNext := rfl
@[simp] theorem record_tx (e : Event) : (record e s).tx = s.tx := rfl
@[simp] theorem record_hist (e : Event) : (record e s).hist = s.hist ++ [e] := rfl

/-! ### acceptFlags -/

@[simp] theorem acceptFlags_csum : (acceptFlags s).csum = s.csum := rfl
@[simp] theorem acceptFlags_len : (acceptFlags s).len = s.len := rfl
@[simp] theorem acceptFlags_itemcnt : (acceptFlags s).itemcnt = s.itemcnt := rfl
@[simp] theorem acceptFlags_shape : (acceptFlags s).shape = s.shape := rfl
@[simp] theorem acceptFlags_gen : (acceptFlags s).gen = s.gen := rfl
@[simp] theorem acceptFlags_seq : (acceptFlags s).seq = s.seq := rfl
@[simp] theorem acceptFlags_rxbuf : (acceptFlags s).rxbuf = s.rxbuf := rfl
@[simp] theorem acceptFlags_opd : (acceptFlags s).opd = s.opd := rfl
@[simp] theorem acceptFlags_res : (acceptFlags s).res = s.res := rfl
@[simp] theorem acceptFlags_items : (acceptFlags s).items = s.items := rfl
@[simp] theorem acceptFlags_errtext : (acceptFlags s).errtext = s.errtext := rfl
@[simp] theorem acceptFlags_busy : (acceptFlags s).busy = true := rfl
@[simp] theorem acceptFlags_doneF : (acceptFlags s).doneF = false := rfl
@[simp] theorem acceptFlags_err : (acceptFlags s).err = false := rfl
@[simp] theorem acceptFlags_resultPresent : (acceptFlags s).resultPresent = false := rfl
@[simp] theorem acceptFlags_ukind : (acceptFlags s).ukind = false := rfl
@[simp] theorem acceptFlags_kind : (acceptFlags s).kind = .ok := rfl
@[simp] theorem acceptFlags_sop : (acceptFlags s).sop = s.sop := rfl
@[simp] theorem acceptFlags_frm : (acceptFlags s).frm = s.frm := rfl
@[simp] theorem acceptFlags_line : (acceptFlags s).line = s.line := rfl
@[simp] theorem acceptFlags_pay : (acceptFlags s).pay = s.pay := rfl
@[simp] theorem acceptFlags_item : (acceptFlags s).item = s.item := rfl
@[simp] theorem acceptFlags_raised : (acceptFlags s).raised = s.raised := rfl
@[simp] theorem acceptFlags_gsel : (acceptFlags s).gsel = s.gsel := rfl
@[simp] theorem acceptFlags_params : (acceptFlags s).params = s.params := rfl
@[simp] theorem acceptFlags_host : (acceptFlags s).host = s.host := rfl
@[simp] theorem acceptFlags_rx : (acceptFlags s).rx = s.rx := rfl
@[simp] theorem acceptFlags_rxNext : (acceptFlags s).rxNext = s.rxNext := rfl
@[simp] theorem acceptFlags_tx : (acceptFlags s).tx = s.tx := rfl
@[simp] theorem acceptFlags_hist : (acceptFlags s).hist = s.hist := rfl

/-! ### completeFlags -/

@[simp] theorem completeFlags_csum (k : Kind) : (completeFlags k s).csum = s.csum := rfl
@[simp] theorem completeFlags_len (k : Kind) : (completeFlags k s).len = s.len := rfl
@[simp] theorem completeFlags_itemcnt (k : Kind) : (completeFlags k s).itemcnt = s.itemcnt := rfl
@[simp] theorem completeFlags_shape (k : Kind) : (completeFlags k s).shape = s.shape := rfl
@[simp] theorem completeFlags_gen (k : Kind) : (completeFlags k s).gen = s.gen := rfl
@[simp] theorem completeFlags_seq (k : Kind) : (completeFlags k s).seq = s.seq := rfl
@[simp] theorem completeFlags_rxbuf (k : Kind) : (completeFlags k s).rxbuf = s.rxbuf := rfl
@[simp] theorem completeFlags_opd (k : Kind) : (completeFlags k s).opd = s.opd := rfl
@[simp] theorem completeFlags_res (k : Kind) : (completeFlags k s).res = s.res := rfl
@[simp] theorem completeFlags_items (k : Kind) : (completeFlags k s).items = s.items := rfl
@[simp] theorem completeFlags_errtext (k : Kind) : (completeFlags k s).errtext = s.errtext := rfl
@[simp] theorem completeFlags_busy (k : Kind) : (completeFlags k s).busy = false := rfl
@[simp] theorem completeFlags_doneF (k : Kind) : (completeFlags k s).doneF = true := rfl
@[simp] theorem completeFlags_err (k : Kind) : (completeFlags k s).err = decide (k ≠ .ok) := rfl
@[simp] theorem completeFlags_resultPresent (k : Kind) : (completeFlags k s).resultPresent = (decide (k = .ok) && s.resultPresent) := rfl
@[simp] theorem completeFlags_ukind (k : Kind) : (completeFlags k s).ukind = (decide (k = .ok) && s.ukind) := rfl
@[simp] theorem completeFlags_kind (k : Kind) : (completeFlags k s).kind = k := rfl
@[simp] theorem completeFlags_sop (k : Kind) : (completeFlags k s).sop = s.sop := rfl
@[simp] theorem completeFlags_frm (k : Kind) : (completeFlags k s).frm = s.frm := rfl
@[simp] theorem completeFlags_line (k : Kind) : (completeFlags k s).line = s.line := rfl
@[simp] theorem completeFlags_pay (k : Kind) : (completeFlags k s).pay = s.pay := rfl
@[simp] theorem completeFlags_item (k : Kind) : (completeFlags k s).item = s.item := rfl
@[simp] theorem completeFlags_raised (k : Kind) : (completeFlags k s).raised = s.raised := rfl
@[simp] theorem completeFlags_gsel (k : Kind) : (completeFlags k s).gsel = s.gsel := rfl
@[simp] theorem completeFlags_params (k : Kind) : (completeFlags k s).params = s.params := rfl
@[simp] theorem completeFlags_host (k : Kind) : (completeFlags k s).host = s.host := rfl
@[simp] theorem completeFlags_rx (k : Kind) : (completeFlags k s).rx = s.rx := rfl
@[simp] theorem completeFlags_rxNext (k : Kind) : (completeFlags k s).rxNext = s.rxNext := rfl
@[simp] theorem completeFlags_tx (k : Kind) : (completeFlags k s).tx = s.tx := rfl
@[simp] theorem completeFlags_hist (k : Kind) : (completeFlags k s).hist = s.hist := rfl

/-! ### complete -/

@[simp] theorem complete_csum (k : Kind) (t : Bytes) : (complete k t s).csum = s.csum := rfl
@[simp] theorem complete_len (k : Kind) (t : Bytes) : (complete k t s).len = s.len := rfl
@[simp] theorem complete_itemcnt (k : Kind) (t : Bytes) : (complete k t s).itemcnt = s.itemcnt := rfl
@[simp] theorem complete_shape (k : Kind) (t : Bytes) : (complete k t s).shape = s.shape := rfl
@[simp] theorem complete_gen (k : Kind) (t : Bytes) : (complete k t s).gen = s.gen := rfl
@[simp] theorem complete_seq (k : Kind) (t : Bytes) : (complete k t s).seq = .idle := rfl
@[simp] theorem complete_rxbuf (k : Kind) (t : Bytes) : (complete k t s).rxbuf = s.rxbuf := rfl
@[simp] theorem complete_opd (k : Kind) (t : Bytes) : (complete k t s).opd = s.opd := rfl
@[simp] theorem complete_res (k : Kind) (t : Bytes) : (complete k t s).res = (if k = .ok then s.res else []) := rfl
@[simp] theorem complete_items (k : Kind) (t : Bytes) : (complete k t s).items = (if k = .ok then s.items else []) := rfl
@[simp] theorem complete_errtext (k : Kind) (t : Bytes) : (complete k t s).errtext = (if k = .ok then [] else cutErrtext s.params t) := rfl
@[simp] theorem complete_busy (k : Kind) (t : Bytes) : (complete k t s).busy = false := rfl
@[simp] theorem complete_doneF (k : Kind) (t : Bytes) : (complete k t s).doneF = true := rfl
@[simp] theorem complete_err (k : Kind) (t : Bytes) : (complete k t s).err = decide (k ≠ .ok) := rfl
@[simp] theorem complete_resultPresent (k : Kind) (t : Bytes) : (complete k t s).resultPresent = (decide (k = .ok) && s.resultPresent) := rfl
@[simp] theorem complete_ukind (k : Kind) (t : Bytes) : (complete k t s).ukind = (decide (k = .ok) && s.ukind) := rfl
@[simp] theorem complete_kind (k : Kind) (t : Bytes) : (complete k t s).kind = k := rfl
@[simp] theorem complete_sop (k : Kind) (t : Bytes) : (complete k t s).sop = s.sop := rfl
@[simp] theorem complete_frm (k : Kind) (t : Bytes) : (complete k t s).frm = s.frm := rfl
@[simp] theorem complete_line (k : Kind) (t : Bytes) : (complete k t s).line = s.line := rfl
@[simp] theorem complete_pay (k : Kind) (t : Bytes) : (complete k t s).pay = s.pay := rfl
@[simp] theorem complete_item (k : Kind) (t : Bytes) : (complete k t s).item = s.item := rfl
@[simp] theorem complete_raised (k : Kind) (t : Bytes) : (complete k t s).raised = s.raised := rfl
@[simp] theorem complete_gsel (k : Kind) (t : Bytes) : (complete k t s).gsel = s.gsel := rfl
@[simp] theorem complete_params (k : Kind) (t : Bytes) : (complete k t s).params = s.params := rfl
@[simp] theorem complete_host (k : Kind) (t : Bytes) : (complete k t s).host = s.host := rfl
@[simp] theorem complete_rx (k : Kind) (t : Bytes) : (complete k t s).rx = s.rx := rfl
@[simp] theorem complete_rxNext (k : Kind) (t : Bytes) : (complete k t s).rxNext = s.rxNext := rfl
@[simp] theorem complete_tx (k : Kind) (t : Bytes) : (complete k t s).tx = s.tx := rfl
@[simp] theorem complete_hist (k : Kind) (t : Bytes) : (complete k t s).hist = s.hist := rfl

/-! ### raise -/

@[simp] theorem raise_csum (k : Kind) (t : Bytes) : (raise k t s).csum = s.csum := rfl
@[simp] theorem raise_len (k : Kind) (t : Bytes) : (raise k t s).len = s.len := rfl
@[simp] theorem raise_itemcnt (k : Kind) (t : Bytes) : (raise k t s).itemcnt = s.itemcnt := rfl
@[simp] theorem raise_shape (k : Kind) (t : Bytes) : (raise k t s).shape = s.shape := rfl
@[simp] theorem raise_gen (k : Kind) (t : Bytes) : (raise k t s).gen = s.gen := rfl
@[simp] theorem raise_seq (k : Kind) (t : Bytes) : (raise k t s).seq = .flush := rfl
@[simp] theorem raise_rxbuf (k : Kind) (t : Bytes) : (raise k t s).rxbuf = s.rxbuf := rfl
@[simp] theorem raise_opd (k : Kind) (t : Bytes) : (raise k t s).opd = s.opd := rfl
@[simp] theorem raise_res (k : Kind) (t : Bytes) : (raise k t s).res = s.res := rfl
@[simp] theorem raise_items (k : Kind) (t : Bytes) : (raise k t s).items = s.items := rfl
@[simp] theorem raise_errtext (k : Kind) (t : Bytes) : (raise k t s).errtext = s.errtext := rfl
@[simp] theorem raise_busy (k : Kind) (t : Bytes) : (raise k t s).busy = s.busy := rfl
@[simp] theorem raise_doneF (k : Kind) (t : Bytes) : (raise k t s).doneF = s.doneF := rfl
@[simp] theorem raise_err (k : Kind) (t : Bytes) : (raise k t s).err = s.err := rfl
@[simp] theorem raise_resultPresent (k : Kind) (t : Bytes) : (raise k t s).resultPresent = s.resultPresent := rfl
@[simp] theorem raise_ukind (k : Kind) (t : Bytes) : (raise k t s).ukind = s.ukind := rfl
@[simp] theorem raise_kind (k : Kind) (t : Bytes) : (raise k t s).kind = s.kind := rfl
@[simp] theorem raise_sop (k : Kind) (t : Bytes) : (raise k t s).sop = s.sop := rfl
@[simp] theorem raise_frm (k : Kind) (t : Bytes) : (raise k t s).frm = s.frm := rfl
@[simp] theorem raise_line (k : Kind) (t : Bytes) : (raise k t s).line = s.line := rfl
@[simp] theorem raise_pay (k : Kind) (t : Bytes) : (raise k t s).pay = s.pay := rfl
@[simp] theorem raise_item (k : Kind) (t : Bytes) : (raise k t s).item = s.item := rfl
@[simp] theorem raise_raised (k : Kind) (t : Bytes) : (raise k t s).raised = ⟨k, t⟩ := rfl
@[simp] theorem raise_gsel (k : Kind) (t : Bytes) : (raise k t s).gsel = s.gsel := rfl
@[simp] theorem raise_params (k : Kind) (t : Bytes) : (raise k t s).params = s.params := rfl
@[simp] theorem raise_host (k : Kind) (t : Bytes) : (raise k t s).host = s.host := rfl
@[simp] theorem raise_rx (k : Kind) (t : Bytes) : (raise k t s).rx = s.rx := rfl
@[simp] theorem raise_rxNext (k : Kind) (t : Bytes) : (raise k t s).rxNext = s.rxNext := rfl
@[simp] theorem raise_tx (k : Kind) (t : Bytes) : (raise k t s).tx = s.tx := rfl
@[simp] theorem raise_hist (k : Kind) (t : Bytes) : (raise k t s).hist = s.hist := rfl

/-! ### transportFlush -/

@[simp] theorem transportFlush_csum : (transportFlush s).csum = s.csum := rfl
@[simp] theorem transportFlush_len : (transportFlush s).len = s.len := rfl
@[simp] theorem transportFlush_itemcnt : (transportFlush s).itemcnt = s.itemcnt := rfl
@[simp] theorem transportFlush_shape : (transportFlush s).shape = s.shape := rfl
@[simp] theorem transportFlush_gen : (transportFlush s).gen = s.gen := rfl
@[simp] theorem transportFlush_seq : (transportFlush s).seq = s.seq := rfl
@[simp] theorem transportFlush_rxbuf : (transportFlush s).rxbuf = s.rxbuf := rfl
@[simp] theorem transportFlush_opd : (transportFlush s).opd = s.opd := rfl
@[simp] theorem transportFlush_res : (transportFlush s).res = s.res := rfl
@[simp] theorem transportFlush_items : (transportFlush s).items = s.items := rfl
@[simp] theorem transportFlush_errtext : (transportFlush s).errtext = s.errtext := rfl
@[simp] theorem transportFlush_busy : (transportFlush s).busy = s.busy := rfl
@[simp] theorem transportFlush_doneF : (transportFlush s).doneF = s.doneF := rfl
@[simp] theorem transportFlush_err : (transportFlush s).err = s.err := rfl
@[simp] theorem transportFlush_resultPresent : (transportFlush s).resultPresent = s.resultPresent := rfl
@[simp] theorem transportFlush_ukind : (transportFlush s).ukind = s.ukind := rfl
@[simp] theorem transportFlush_kind : (transportFlush s).kind = s.kind := rfl
@[simp] theorem transportFlush_sop : (transportFlush s).sop = s.sop := rfl
@[simp] theorem transportFlush_frm : (transportFlush s).frm = s.frm := rfl
@[simp] theorem transportFlush_line : (transportFlush s).line = s.line := rfl
@[simp] theorem transportFlush_pay : (transportFlush s).pay = s.pay := rfl
@[simp] theorem transportFlush_item : (transportFlush s).item = s.item := rfl
@[simp] theorem transportFlush_raised : (transportFlush s).raised = s.raised := rfl
@[simp] theorem transportFlush_gsel : (transportFlush s).gsel = s.gsel := rfl
@[simp] theorem transportFlush_params : (transportFlush s).params = s.params := rfl
@[simp] theorem transportFlush_host : (transportFlush s).host = s.host := rfl
@[simp] theorem transportFlush_rx : (transportFlush s).rx = s.rxNext.headD [] := rfl
@[simp] theorem transportFlush_rxNext : (transportFlush s).rxNext = s.rxNext.tail := rfl
@[simp] theorem transportFlush_tx : (transportFlush s).tx = s.tx := rfl
@[simp] theorem transportFlush_hist : (transportFlush s).hist = s.hist ++ [.flush] := rfl

/-! ### accept -/

@[simp] theorem accept_csum (p : Bytes) : (accept p s).csum = s.csum := rfl
@[simp] theorem accept_len (p : Bytes) : (accept p s).len = s.len := rfl
@[simp] theorem accept_itemcnt (p : Bytes) : (accept p s).itemcnt = 0 := rfl
@[simp] theorem accept_shape (p : Bytes) : (accept p s).shape = s.shape := rfl
@[simp] theorem accept_gen (p : Bytes) : (accept p s).gen = s.gen := rfl
@[simp] theorem accept_seq (p : Bytes) : (accept p s).seq = s.seq := rfl
@[simp] theorem accept_rxbuf (p : Bytes) : (accept p s).rxbuf = s.rxbuf := rfl
@[simp] theorem accept_opd (p : Bytes) : (accept p s).opd = p := rfl
@[simp] theorem accept_res (p : Bytes) : (accept p s).res = [] := rfl
@[simp] theorem accept_items (p : Bytes) : (accept p s).items = [] := rfl
@[simp] theorem accept_errtext (p : Bytes) : (accept p s).errtext = [] := rfl
@[simp] theorem accept_busy (p : Bytes) : (accept p s).busy = true := rfl
@[simp] theorem accept_doneF (p : Bytes) : (accept p s).doneF = false := rfl
@[simp] theorem accept_err (p : Bytes) : (accept p s).err = false := rfl
@[simp] theorem accept_resultPresent (p : Bytes) : (accept p s).resultPresent = false := rfl
@[simp] theorem accept_ukind (p : Bytes) : (accept p s).ukind = false := rfl
@[simp] theorem accept_kind (p : Bytes) : (accept p s).kind = .ok := rfl
@[simp] theorem accept_sop (p : Bytes) : (accept p s).sop = s.sop := rfl
@[simp] theorem accept_frm (p : Bytes) : (accept p s).frm = s.frm := rfl
@[simp] theorem accept_line (p : Bytes) : (accept p s).line = s.line := rfl
@[simp] theorem accept_pay (p : Bytes) : (accept p s).pay = s.pay := rfl
@[simp] theorem accept_item (p : Bytes) : (accept p s).item = s.item := rfl
@[simp] theorem accept_raised (p : Bytes) : (accept p s).raised = s.raised := rfl
@[simp] theorem accept_gsel (p : Bytes) : (accept p s).gsel = s.gsel := rfl
@[simp] theorem accept_params (p : Bytes) : (accept p s).params = s.params := rfl
@[simp] theorem accept_host (p : Bytes) : (accept p s).host = s.host.tail := rfl
@[simp] theorem accept_rx (p : Bytes) : (accept p s).rx = s.rx := rfl
@[simp] theorem accept_rxNext (p : Bytes) : (accept p s).rxNext = s.rxNext := rfl
@[simp] theorem accept_tx (p : Bytes) : (accept p s).tx = s.tx := rfl
@[simp] theorem accept_hist (p : Bytes) : (accept p s).hist = s.hist := rfl

/-! ### acceptStandalone -/

@[simp] theorem acceptStandalone_csum (op : Standalone) (p : Bytes) : (acceptStandalone op p s).csum = s.csum := rfl
@[simp] theorem acceptStandalone_len (op : Standalone) (p : Bytes) : (acceptStandalone op p s).len = s.len := rfl
@[simp] theorem acceptStandalone_itemcnt (op : Standalone) (p : Bytes) : (acceptStandalone op p s).itemcnt = 0 := rfl
@[simp] theorem acceptStandalone_shape (op : Standalone) (p : Bytes) : (acceptStandalone op p s).shape = s.shape := rfl
@[simp] theorem acceptStandalone_gen (op : Standalone) (p : Bytes) : (acceptStandalone op p s).gen = s.gen := rfl
@[simp] theorem acceptStandalone_seq (op : Standalone) (p : Bytes) : (acceptStandalone op p s).seq = .exec := rfl
@[simp] theorem acceptStandalone_rxbuf (op : Standalone) (p : Bytes) : (acceptStandalone op p s).rxbuf = s.rxbuf := rfl
@[simp] theorem acceptStandalone_opd (op : Standalone) (p : Bytes) : (acceptStandalone op p s).opd = p := rfl
@[simp] theorem acceptStandalone_res (op : Standalone) (p : Bytes) : (acceptStandalone op p s).res = [] := rfl
@[simp] theorem acceptStandalone_items (op : Standalone) (p : Bytes) : (acceptStandalone op p s).items = [] := rfl
@[simp] theorem acceptStandalone_errtext (op : Standalone) (p : Bytes) : (acceptStandalone op p s).errtext = [] := rfl
@[simp] theorem acceptStandalone_busy (op : Standalone) (p : Bytes) : (acceptStandalone op p s).busy = true := rfl
@[simp] theorem acceptStandalone_doneF (op : Standalone) (p : Bytes) : (acceptStandalone op p s).doneF = false := rfl
@[simp] theorem acceptStandalone_err (op : Standalone) (p : Bytes) : (acceptStandalone op p s).err = false := rfl
@[simp] theorem acceptStandalone_resultPresent (op : Standalone) (p : Bytes) : (acceptStandalone op p s).resultPresent = false := rfl
@[simp] theorem acceptStandalone_ukind (op : Standalone) (p : Bytes) : (acceptStandalone op p s).ukind = false := rfl
@[simp] theorem acceptStandalone_kind (op : Standalone) (p : Bytes) : (acceptStandalone op p s).kind = .ok := rfl
@[simp] theorem acceptStandalone_sop (op : Standalone) (p : Bytes) : (acceptStandalone op p s).sop = op := rfl
@[simp] theorem acceptStandalone_frm (op : Standalone) (p : Bytes) : (acceptStandalone op p s).frm = s.frm := rfl
@[simp] theorem acceptStandalone_line (op : Standalone) (p : Bytes) : (acceptStandalone op p s).line = s.line := rfl
@[simp] theorem acceptStandalone_pay (op : Standalone) (p : Bytes) : (acceptStandalone op p s).pay = s.pay := rfl
@[simp] theorem acceptStandalone_item (op : Standalone) (p : Bytes) : (acceptStandalone op p s).item = s.item := rfl
@[simp] theorem acceptStandalone_raised (op : Standalone) (p : Bytes) : (acceptStandalone op p s).raised = s.raised := rfl
@[simp] theorem acceptStandalone_gsel (op : Standalone) (p : Bytes) : (acceptStandalone op p s).gsel = s.gsel := rfl
@[simp] theorem acceptStandalone_params (op : Standalone) (p : Bytes) : (acceptStandalone op p s).params = s.params := rfl
@[simp] theorem acceptStandalone_host (op : Standalone) (p : Bytes) : (acceptStandalone op p s).host = s.host.tail := rfl
@[simp] theorem acceptStandalone_rx (op : Standalone) (p : Bytes) : (acceptStandalone op p s).rx = s.rx := rfl
@[simp] theorem acceptStandalone_rxNext (op : Standalone) (p : Bytes) : (acceptStandalone op p s).rxNext = s.rxNext := rfl
@[simp] theorem acceptStandalone_tx (op : Standalone) (p : Bytes) : (acceptStandalone op p s).tx = s.tx := rfl
@[simp] theorem acceptStandalone_hist (op : Standalone) (p : Bytes) : (acceptStandalone op p s).hist = s.hist := rfl

/-! ### acceptExchange -/

@[simp] theorem acceptExchange_csum (sh : Shape) (g : Bool) (p : Bytes) : (acceptExchange sh g p s).csum = s.csum := rfl
@[simp] theorem acceptExchange_len (sh : Shape) (g : Bool) (p : Bytes) : (acceptExchange sh g p s).len = s.len := rfl
@[simp] theorem acceptExchange_itemcnt (sh : Shape) (g : Bool) (p : Bytes) : (acceptExchange sh g p s).itemcnt = 0 := rfl
@[simp] theorem acceptExchange_shape (sh : Shape) (g : Bool) (p : Bytes) : (acceptExchange sh g p s).shape = sh := rfl
@[simp] theorem acceptExchange_gen (sh : Shape) (g : Bool) (p : Bytes) : (acceptExchange sh g p s).gen = g := rfl
@[simp] theorem acceptExchange_seq (sh : Shape) (g : Bool) (p : Bytes) : (acceptExchange sh g p s).seq = .enc := rfl
@[simp] theorem acceptExchange_rxbuf (sh : Shape) (g : Bool) (p : Bytes) : (acceptExchange sh g p s).rxbuf = s.rxbuf := rfl
@[simp] theorem acceptExchange_opd (sh : Shape) (g : Bool) (p : Bytes) : (acceptExchange sh g p s).opd = p := rfl
@[simp] theorem acceptExchange_res (sh : Shape) (g : Bool) (p : Bytes) : (acceptExchange sh g p s).res = [] := rfl
@[simp] theorem acceptExchange_items (sh : Shape) (g : Bool) (p : Bytes) : (acceptExchange sh g p s).items = [] := rfl
@[simp] theorem acceptExchange_errtext (sh : Shape) (g : Bool) (p : Bytes) : (acceptExchange sh g p s).errtext = [] := rfl
@[simp] theorem acceptExchange_busy (sh : Shape) (g : Bool) (p : Bytes) : (acceptExchange sh g p s).busy = true := rfl
@[simp] theorem acceptExchange_doneF (sh : Shape) (g : Bool) (p : Bytes) : (acceptExchange sh g p s).doneF = false := rfl
@[simp] theorem acceptExchange_err (sh : Shape) (g : Bool) (p : Bytes) : (acceptExchange sh g p s).err = false := rfl
@[simp] theorem acceptExchange_resultPresent (sh : Shape) (g : Bool) (p : Bytes) : (acceptExchange sh g p s).resultPresent = false := rfl
@[simp] theorem acceptExchange_ukind (sh : Shape) (g : Bool) (p : Bytes) : (acceptExchange sh g p s).ukind = false := rfl
@[simp] theorem acceptExchange_kind (sh : Shape) (g : Bool) (p : Bytes) : (acceptExchange sh g p s).kind = .ok := rfl
@[simp] theorem acceptExchange_sop (sh : Shape) (g : Bool) (p : Bytes) : (acceptExchange sh g p s).sop = s.sop := rfl
@[simp] theorem acceptExchange_frm (sh : Shape) (g : Bool) (p : Bytes) : (acceptExchange sh g p s).frm = s.frm := rfl
@[simp] theorem acceptExchange_line (sh : Shape) (g : Bool) (p : Bytes) : (acceptExchange sh g p s).line = s.line := rfl
@[simp] theorem acceptExchange_pay (sh : Shape) (g : Bool) (p : Bytes) : (acceptExchange sh g p s).pay = s.pay := rfl
@[simp] theorem acceptExchange_item (sh : Shape) (g : Bool) (p : Bytes) : (acceptExchange sh g p s).item = s.item := rfl
@[simp] theorem acceptExchange_raised (sh : Shape) (g : Bool) (p : Bytes) : (acceptExchange sh g p s).raised = s.raised := rfl
@[simp] theorem acceptExchange_gsel (sh : Shape) (g : Bool) (p : Bytes) : (acceptExchange sh g p s).gsel = if g then presentedMatcher s else s.gsel := rfl
@[simp] theorem acceptExchange_params (sh : Shape) (g : Bool) (p : Bytes) : (acceptExchange sh g p s).params = s.params := rfl
@[simp] theorem acceptExchange_host (sh : Shape) (g : Bool) (p : Bytes) : (acceptExchange sh g p s).host = s.host.tail := rfl
@[simp] theorem acceptExchange_rx (sh : Shape) (g : Bool) (p : Bytes) : (acceptExchange sh g p s).rx = s.rx := rfl
@[simp] theorem acceptExchange_rxNext (sh : Shape) (g : Bool) (p : Bytes) : (acceptExchange sh g p s).rxNext = s.rxNext := rfl
@[simp] theorem acceptExchange_tx (sh : Shape) (g : Bool) (p : Bytes) : (acceptExchange sh g p s).tx = s.tx := rfl
@[simp] theorem acceptExchange_hist (sh : Shape) (g : Bool) (p : Bytes) : (acceptExchange sh g p s).hist = s.hist := rfl

/-! ### deliver -/

@[simp] theorem deliver_csum (r : Bytes) (u : Bool) : (deliver r u s).csum = s.csum := rfl
@[simp] theorem deliver_len (r : Bytes) (u : Bool) : (deliver r u s).len = s.len := rfl
@[simp] theorem deliver_itemcnt (r : Bytes) (u : Bool) : (deliver r u s).itemcnt = s.itemcnt := rfl
@[simp] theorem deliver_shape (r : Bytes) (u : Bool) : (deliver r u s).shape = s.shape := rfl
@[simp] theorem deliver_gen (r : Bytes) (u : Bool) : (deliver r u s).gen = s.gen := rfl
@[simp] theorem deliver_seq (r : Bytes) (u : Bool) : (deliver r u s).seq = .idle := rfl
@[simp] theorem deliver_rxbuf (r : Bytes) (u : Bool) : (deliver r u s).rxbuf = s.rxbuf := rfl
@[simp] theorem deliver_opd (r : Bytes) (u : Bool) : (deliver r u s).opd = s.opd := rfl
@[simp] theorem deliver_res (r : Bytes) (u : Bool) : (deliver r u s).res = r := rfl
@[simp] theorem deliver_items (r : Bytes) (u : Bool) : (deliver r u s).items = s.items := rfl
@[simp] theorem deliver_errtext (r : Bytes) (u : Bool) : (deliver r u s).errtext = [] := rfl
@[simp] theorem deliver_busy (r : Bytes) (u : Bool) : (deliver r u s).busy = false := rfl
@[simp] theorem deliver_doneF (r : Bytes) (u : Bool) : (deliver r u s).doneF = true := rfl
@[simp] theorem deliver_err (r : Bytes) (u : Bool) : (deliver r u s).err = false := rfl
@[simp] theorem deliver_resultPresent (r : Bytes) (u : Bool) : (deliver r u s).resultPresent = true := rfl
@[simp] theorem deliver_ukind (r : Bytes) (u : Bool) : (deliver r u s).ukind = u := by simp [deliver, complete, completeFlags]
@[simp] theorem deliver_kind (r : Bytes) (u : Bool) : (deliver r u s).kind = .ok := rfl
@[simp] theorem deliver_sop (r : Bytes) (u : Bool) : (deliver r u s).sop = s.sop := rfl
@[simp] theorem deliver_frm (r : Bytes) (u : Bool) : (deliver r u s).frm = s.frm := rfl
@[simp] theorem deliver_line (r : Bytes) (u : Bool) : (deliver r u s).line = s.line := rfl
@[simp] theorem deliver_pay (r : Bytes) (u : Bool) : (deliver r u s).pay = s.pay := rfl
@[simp] theorem deliver_item (r : Bytes) (u : Bool) : (deliver r u s).item = s.item := rfl
@[simp] theorem deliver_raised (r : Bytes) (u : Bool) : (deliver r u s).raised = s.raised := rfl
@[simp] theorem deliver_gsel (r : Bytes) (u : Bool) : (deliver r u s).gsel = s.gsel := rfl
@[simp] theorem deliver_params (r : Bytes) (u : Bool) : (deliver r u s).params = s.params := rfl
@[simp] theorem deliver_host (r : Bytes) (u : Bool) : (deliver r u s).host = s.host := rfl
@[simp] theorem deliver_rx (r : Bytes) (u : Bool) : (deliver r u s).rx = s.rx := rfl
@[simp] theorem deliver_rxNext (r : Bytes) (u : Bool) : (deliver r u s).rxNext = s.rxNext := rfl
@[simp] theorem deliver_tx (r : Bytes) (u : Bool) : (deliver r u s).tx = s.tx := rfl
@[simp] theorem deliver_hist (r : Bytes) (u : Bool) : (deliver r u s).hist = s.hist := rfl

/-! ### illegalOp -/

@[simp] theorem illegalOp_csum : (illegalOp s).csum = s.csum := rfl
@[simp] theorem illegalOp_len : (illegalOp s).len = s.len := rfl
@[simp] theorem illegalOp_itemcnt : (illegalOp s).itemcnt = s.itemcnt := rfl
@[simp] theorem illegalOp_shape : (illegalOp s).shape = s.shape := rfl
@[simp] theorem illegalOp_gen : (illegalOp s).gen = s.gen := rfl
@[simp] theorem illegalOp_seq : (illegalOp s).seq = .idle := rfl
@[simp] theorem illegalOp_rxbuf : (illegalOp s).rxbuf = s.rxbuf := rfl
@[simp] theorem illegalOp_opd : (illegalOp s).opd = s.opd := rfl
@[simp] theorem illegalOp_res : (illegalOp s).res = [] := rfl
@[simp] theorem illegalOp_items : (illegalOp s).items = [] := rfl
@[simp] theorem illegalOp_errtext : (illegalOp s).errtext = cutErrtext s.params [] := rfl
@[simp] theorem illegalOp_busy : (illegalOp s).busy = false := rfl
@[simp] theorem illegalOp_doneF : (illegalOp s).doneF = true := rfl
@[simp] theorem illegalOp_err : (illegalOp s).err = true := rfl
@[simp] theorem illegalOp_resultPresent : (illegalOp s).resultPresent = false := rfl
@[simp] theorem illegalOp_ukind : (illegalOp s).ukind = false := rfl
@[simp] theorem illegalOp_kind : (illegalOp s).kind = .illegalOp := rfl
@[simp] theorem illegalOp_sop : (illegalOp s).sop = s.sop := rfl
@[simp] theorem illegalOp_frm : (illegalOp s).frm = s.frm := rfl
@[simp] theorem illegalOp_line : (illegalOp s).line = s.line := rfl
@[simp] theorem illegalOp_pay : (illegalOp s).pay = s.pay := rfl
@[simp] theorem illegalOp_item : (illegalOp s).item = s.item := rfl
@[simp] theorem illegalOp_raised : (illegalOp s).raised = s.raised := rfl
@[simp] theorem illegalOp_gsel : (illegalOp s).gsel = s.gsel := rfl
@[simp] theorem illegalOp_params : (illegalOp s).params = s.params := rfl
@[simp] theorem illegalOp_host : (illegalOp s).host = s.host.tail := rfl
@[simp] theorem illegalOp_rx : (illegalOp s).rx = s.rx := rfl
@[simp] theorem illegalOp_rxNext : (illegalOp s).rxNext = s.rxNext := rfl
@[simp] theorem illegalOp_tx : (illegalOp s).tx = s.tx := rfl
@[simp] theorem illegalOp_hist : (illegalOp s).hist = s.hist := rfl

/-! ### errorExit -/

@[simp] theorem errorExit_csum (e : Raise) : (errorExit e s).csum = s.csum := rfl
@[simp] theorem errorExit_len (e : Raise) : (errorExit e s).len = s.len := rfl
@[simp] theorem errorExit_itemcnt (e : Raise) : (errorExit e s).itemcnt = s.itemcnt := rfl
@[simp] theorem errorExit_shape (e : Raise) : (errorExit e s).shape = s.shape := rfl
@[simp] theorem errorExit_gen (e : Raise) : (errorExit e s).gen = s.gen := rfl
@[simp] theorem errorExit_seq (e : Raise) : (errorExit e s).seq = .idle := rfl
@[simp] theorem errorExit_rxbuf (e : Raise) : (errorExit e s).rxbuf = (if s.params.flushClearsRxbuf then [] else s.rxbuf) := rfl
@[simp] theorem errorExit_opd (e : Raise) : (errorExit e s).opd = s.opd := rfl
@[simp] theorem errorExit_res (e : Raise) : (errorExit e s).res = (if e.kind = .ok then s.res else []) := rfl
@[simp] theorem errorExit_items (e : Raise) : (errorExit e s).items = [] := ite_self _
@[simp] theorem errorExit_errtext (e : Raise) : (errorExit e s).errtext = (if e.kind = .ok then [] else cutErrtext s.params e.text) := rfl
@[simp] theorem errorExit_busy (e : Raise) : (errorExit e s).busy = false := rfl
@[simp] theorem errorExit_doneF (e : Raise) : (errorExit e s).doneF = true := rfl
@[simp] theorem errorExit_err (e : Raise) : (errorExit e s).err = decide (e.kind ≠ .ok) := rfl
@[simp] theorem errorExit_resultPresent (e : Raise) : (errorExit e s).resultPresent = (decide (e.kind = .ok) && s.resultPresent) := rfl
@[simp] theorem errorExit_ukind (e : Raise) : (errorExit e s).ukind = (decide (e.kind = .ok) && s.ukind) := rfl
@[simp] theorem errorExit_kind (e : Raise) : (errorExit e s).kind = e.kind := rfl
@[simp] theorem errorExit_sop (e : Raise) : (errorExit e s).sop = s.sop := rfl
@[simp] theorem errorExit_frm (e : Raise) : (errorExit e s).frm = s.frm := rfl
@[simp] theorem errorExit_line (e : Raise) : (errorExit e s).line = s.line := rfl
@[simp] theorem errorExit_pay (e : Raise) : (errorExit e s).pay = s.pay := rfl
@[simp] theorem errorExit_item (e : Raise) : (errorExit e s).item = s.item := rfl
@[simp] theorem errorExit_raised (e : Raise) : (errorExit e s).raised = s.raised := rfl
@[simp] theorem errorExit_gsel (e : Raise) : (errorExit e s).gsel = s.gsel := rfl
@[simp] theorem errorExit_params (e : Raise) : (errorExit e s).params = s.params := rfl
@[simp] theorem errorExit_host (e : Raise) : (errorExit e s).host = s.host := rfl
@[simp] theorem errorExit_rx (e : Raise) : (errorExit e s).rx = s.rxNext.headD [] := rfl
@[simp] theorem errorExit_rxNext (e : Raise) : (errorExit e s).rxNext = s.rxNext.tail := rfl
@[simp] theorem errorExit_tx (e : Raise) : (errorExit e s).tx = s.tx := rfl
@[simp] theorem errorExit_hist (e : Raise) : (errorExit e s).hist = s.hist ++ [.flush] := rfl

end Sys2Proof.Machine
end

