-- ==== Sys2Proof/Laws/Ops.lean ====
section
/-! SUPPORT. What the shared operations of Machine/Ops.lean can do, said once: the small lemmas of the history as streams,
one inversion lemma each for fill, fetchUnit and transportWrite, and how fetchUnit runs on a script of chunks. -/

namespace Sys2Proof.Machine

/-! ### Streams of the history -/

@[simp] theorem rxTaken_nil : rxTaken [] = [] := rfl
@[simp] theorem txStream_nil : txStream [] = [] := rfl

@[simp] theorem rxTaken_append (h k : List Event) : rxTaken (h ++ k) = rxTaken h ++ rxTaken k := by
  simp [rxTaken]

@[simp] theorem txStream_append (h k : List Event) : txStream (h ++ k) = txStream h ++ txStream k := by
  simp [txStream]

@[simp] theorem rxTaken_data (b : Byte) (bs : Bytes) (h : List Event) :
    rxTaken (.read (.data b bs) :: h) = b :: bs ++ rxTaken h := rfl
@[simp] theorem rxTaken_timeout (h : List Event) : rxTaken (.read .timeout :: h) = rxTaken h := rfl
@[simp] theorem rxTaken_eos (h : List Event) : rxTaken (.read .eos :: h) = rxTaken h := rfl
@[simp] theorem rxTaken_write (bs : Bytes) (n : Nat) (h : List Event) : rxTaken (.write bs n :: h) = rxTaken h := rfl
@[simp] theorem rxTaken_flush (h : List Event) : rxTaken (.flush :: h) = rxTaken h := rfl
@[simp] theorem rxTaken_matched (p : Bytes) (v : Verdict) (h : List Event) :
    rxTaken (.matched p v :: h) = rxTaken h := rfl
@[simp] theorem txStream_write (bs : Bytes) (n : Nat) (h : List Event) :
    txStream (.write bs n :: h) = bs.take n ++ txStream h := rfl
@[simp] theorem txStream_read (a : ReadAnswer) (h : List Event) : txStream (.read a :: h) = txStream h := rfl
@[simp] theorem txStream_flush (h : List Event) : txStream (.flush :: h) = txStream h := rfl
@[simp] theorem txStream_matched (p : Bytes) (v : Verdict) (h : List Event) :
    txStream (.matched p v :: h) = txStream h := rfl

/-! ### Scripts of chunks -/

@[simp] theorem dataAnswers_nil : dataAnswers [] = [] := rfl
@[simp] theorem dataAnswers_cons (b : Byte) (bs : Bytes) (cs : List (Byte × Bytes)) :
    dataAnswers ((b, bs) :: cs) = .data b bs :: dataAnswers cs := rfl
@[simp] theorem chunkBytes_nil : chunkBytes [] = [] := rfl
@[simp] theorem chunkBytes_cons (b : Byte) (bs : Bytes) (cs : List (Byte × Bytes)) :
    chunkBytes ((b, bs) :: cs) = b :: bs ++ chunkBytes cs := rfl

@[simp] theorem dataAnswers_append (cs ds : List (Byte × Bytes)) :
    dataAnswers (cs ++ ds) = dataAnswers cs ++ dataAnswers ds := by
  induction cs with
  | nil => rfl
  | cons c cs ih => obtain ⟨b, bs⟩ := c; simp [ih]

@[simp] theorem chunkBytes_append (cs ds : List (Byte × Bytes)) :
    chunkBytes (cs ++ ds) = chunkBytes cs ++ chunkBytes ds := by
  induction cs with
  | nil => rfl
  | cons c cs ih => obtain ⟨b, bs⟩ := c; simp [ih]

@[simp] theorem scriptBytes_append (a b : List ReadAnswer) : scriptBytes (a ++ b) = scriptBytes a ++ scriptBytes b := by
  simp [scriptBytes]

@[simp] theorem scriptBytes_dataAnswers (cs : List (Byte × Bytes)) : scriptBytes (dataAnswers cs) = chunkBytes cs := by
  induction cs with
  | nil => rfl
  | cons c cs ih => obtain ⟨b, bs⟩ := c; simpa [scriptBytes] using ih

@[simp] theorem rxTaken_dataAnswers (cs : List (Byte × Bytes)) :
    rxTaken ((dataAnswers cs).map Event.read) = chunkBytes cs :=
  scriptBytes_dataAnswers cs

@[simp] theorem txStream_reads (rx : List ReadAnswer) : txStream (rx.map Event.read) = [] := by
  induction rx with
  | nil => rfl
  | cons a rx ih => simpa using ih

theorem cutUnit_none_of_append (bs more : Bytes) (h : cutUnit (bs ++ more) = none) : cutUnit bs = none := by
  cases hc : cutUnit bs with
  | none => rfl
  | some q =>
    obtain ⟨u, r⟩ := q
    rw [cutUnit_append bs r more u hc] at h
    cases h

/-- R63: what fits a capacity, fits with less. -/
theorem rxbufFits_mono (params : Params) (m n : Nat) (hmn : m ≤ n) (h : rxbufFits params n = true) :
    rxbufFits params m = true := by
  cases hd : params.rxbufDepth with
  | none => simp [rxbufFits, hd]
  | some d =>
    simp only [rxbufFits, hd, decide_eq_true_eq] at h ⊢
    omega

/-! ### fill -/

/-- R131: everything one FILL can do. -/
theorem fill_cases (a : ReadAnswer) (s : State) :
    (∃ b bs, a = .data b bs ∧ rxbufFits s.params (s.rxbuf.length + (bs.length + 1)) = true
      ∧ fill a s = .filled { s with rxbuf := s.rxbuf ++ (b :: bs), hist := s.hist ++ [.read a] })
    ∨ (∃ b bs, a = .data b bs ∧ rxbufFits s.params (s.rxbuf.length + (bs.length + 1)) = false ∧ fill a s = .overflow)
    ∨ (a = .timeout ∧ fill a s = .failed .timeoutError { s with hist := s.hist ++ [.read a] })
    ∨ (a = .eos ∧ fill a s = .failed .readError { s with hist := s.hist ++ [.read a] }) := by
  cases a with
  | data b bs =>
    cases h : rxbufFits s.params (s.rxbuf.length + (bs.length + 1)) with
    | true => exact .inl ⟨b, bs, rfl, h, by simp [fill, h, pushRx, record]⟩
    | false => exact .inr (.inl ⟨b, bs, rfl, h, by simp [fill, h]⟩)
  | timeout => exact .inr (.inr (.inl ⟨rfl, rfl⟩))
  | eos => exact .inr (.inr (.inr ⟨rfl, rfl⟩))

/-! ### fetchUnit -/

/-- The state after ReadUnit has taken these chunks and left this script. -/
def afterFills (s : State) (cs : List (Byte × Bytes)) (rest : List ReadAnswer) : State :=
  { s with rxbuf := s.rxbuf ++ chunkBytes cs, rx := rest, hist := s.hist ++ (dataAnswers cs).map Event.read }

theorem fetchUnit_found_now (rx : List ReadAnswer) (s : State) (u : RxUnit) (r : Bytes) (h : cutUnit s.rxbuf = some (u, r)) :
    fetchUnit rx s = .found u { s with rx := rx } := by
  cases rx <;> simp [fetchUnit, h]

theorem fetchUnit_data (b : Byte) (bs : Bytes) (rx : List ReadAnswer) (s : State) (h : cutUnit s.rxbuf = none)
    (hf : rxbufFits s.params (s.rxbuf.length + (bs.length + 1)) = true) :
    fetchUnit (.data b bs :: rx) s
      = fetchUnit rx { s with rxbuf := s.rxbuf ++ (b :: bs), hist := s.hist ++ [.read (.data b bs)] } := by
  simp [fetchUnit, h, fill, hf, pushRx, record]

/-- R132, R134: everything ReadUnit can come to, up to the removal of the unit. -/
theorem fetchUnit_cases (rx : List ReadAnswer) (s : State) : ∃ cs rest, rx = dataAnswers cs ++ rest
    ∧ (rxbufFits s.params s.rxbuf.length = true → rxbufFits s.params (s.rxbuf ++ chunkBytes cs).length = true)
    ∧ ((∃ u r, cutUnit (s.rxbuf ++ chunkBytes cs) = some (u, r) ∧ fetchUnit rx s = .found u (afterFills s cs rest))
      ∨ (∃ a k rest', rest = a :: rest' ∧ cutUnit (s.rxbuf ++ chunkBytes cs) = none
          ∧ (a = .timeout ∧ k = .timeoutError ∨ a = .eos ∧ k = .readError)
          ∧ fetchUnit rx s = .failed k { afterFills s cs rest' with hist := (afterFills s cs rest').hist ++ [.read a] })
      ∨ (rest = [] ∧ cutUnit (s.rxbuf ++ chunkBytes cs) = none ∧ fetchUnit rx s = .waiting (afterFills s cs []))
      ∨ (∃ b bs rest', rest = .data b bs :: rest' ∧ cutUnit (s.rxbuf ++ chunkBytes cs) = none
          ∧ rxbufFits s.params ((s.rxbuf ++ chunkBytes cs).length + (bs.length + 1)) = false
          ∧ fetchUnit rx s = .overflow)) := by
  induction rx generalizing s with
  | nil =>
    refine ⟨[], [], rfl, by simp, ?_⟩
    cases hc : cutUnit s.rxbuf with
    | none => exact .inr (.inr (.inl ⟨rfl, by simp [hc], by simp [fetchUnit, hc, afterFills]⟩))
    | some q => exact .inl ⟨q.1, q.2, by simp [hc], by simp [fetchUnit, hc, afterFills]⟩
  | cons a rx ih =>
    cases hc : cutUnit s.rxbuf with
    | some q => exact ⟨[], a :: rx, rfl, by simp, .inl ⟨q.1, q.2, by simp [hc], by simp [fetchUnit, hc, afterFills]⟩⟩
    | none =>
      obtain ⟨b, bs, rfl, hf, he⟩ | ⟨b, bs, rfl, hf, he⟩ | ⟨rfl, he⟩ | ⟨rfl, he⟩ := fill_cases a s
      · obtain ⟨cs, rest, hrx, hfit, h⟩ := ih { s with rxbuf := s.rxbuf ++ (b :: bs), hist := s.hist ++ [.read (.data b bs)] }
        rw [← fetchUnit_data b bs rx s hc hf] at h
        refine ⟨(b, bs) :: cs, rest, by simp [hrx], fun _ => ?_, ?_⟩
        · simpa [Nat.add_assoc] using hfit (by simpa using hf)
        · simpa [afterFills] using h
      · refine ⟨[], .data b bs :: rx, rfl, by simp, .inr (.inr (.inr ⟨b, bs, rx, rfl, by simp [hc], by simpa using hf, ?_⟩))⟩
        simp [fetchUnit, hc, he]
      · refine ⟨[], .timeout :: rx, rfl, by simp, .inr (.inl ⟨_, _, rx, rfl, by simp [hc], .inl ⟨rfl, rfl⟩, ?_⟩)⟩
        simp [fetchUnit, hc, he, afterFills]
      · refine ⟨[], .eos :: rx, rfl, by simp, .inr (.inl ⟨_, _, rx, rfl, by simp [hc], .inr ⟨rfl, rfl⟩, ?_⟩)⟩
        simp [fetchUnit, hc, he, afterFills]

/-- R132, R140: ReadUnit on a script of chunks whose bytes complete a unit: it stops at the chunk that completes it. -/
theorem fetchUnit_of_stream (cs : List (Byte × Bytes)) (rest : List ReadAnswer) (s : State) (u : RxUnit) (left : Bytes)
    (hd : rxbufFits s.params (s.rxbuf ++ chunkBytes cs).length = true)
    (hc : cutUnit (s.rxbuf ++ chunkBytes cs) = some (u, left)) :
    ∃ cs1 cs2 r1, cs = cs1 ++ cs2 ∧ cutUnit (s.rxbuf ++ chunkBytes cs1) = some (u, r1) ∧ r1 ++ chunkBytes cs2 = left
      ∧ (∀ a b, cs1 = a ++ b → b ≠ [] → cutUnit (s.rxbuf ++ chunkBytes a) = none)
      ∧ fetchUnit (dataAnswers cs ++ rest) s = .found u (afterFills s cs1 (dataAnswers cs2 ++ rest)) := by
  induction cs generalizing s with
  | nil =>
    refine ⟨[], [], left, rfl, hc, by simp, by simp, ?_⟩
    rw [fetchUnit_found_now _ s u left (by simpa using hc)]
    simp [afterFills]
  | cons c cs ih =>
    obtain ⟨b, bs⟩ := c
    cases hn : cutUnit s.rxbuf with
    | some q =>
      obtain ⟨u', r'⟩ := q
      have h2 := cutUnit_append _ _ (chunkBytes ((b, bs) :: cs)) _ hn
      rw [hc] at h2
      cases h2
      refine ⟨[], (b, bs) :: cs, r', rfl, by simp [hn], rfl, by simp, ?_⟩
      rw [fetchUnit_found_now _ s u r' hn]
      simp [afterFills]
    | none =>
      have hf : rxbufFits s.params (s.rxbuf.length + (bs.length + 1)) = true :=
        rxbufFits_mono _ _ _ (by simp) hd
      have hstep := fetchUnit_data b bs (dataAnswers cs ++ rest) s hn hf
      obtain ⟨cs1, cs2, r1, rfl, h1, h2, hmin, h3⟩ :=
        ih { s with rxbuf := s.rxbuf ++ (b :: bs), hist := s.hist ++ [.read (.data b bs)] } (by simpa using hd) (by simpa using hc)
      refine ⟨(b, bs) :: cs1, cs2, r1, rfl, by simpa using h1, h2, ?_, ?_⟩
      · intro a b' hab hb'
        cases a with
        | nil => simpa using hn
        | cons x a =>
          simp only [List.cons_append, List.cons.injEq] at hab
          obtain ⟨rfl, hab⟩ := hab
          simpa using hmin a b' hab hb'
      simp only [dataAnswers_cons, List.cons_append, hstep, h3, afterFills]
      simp

/-- R132: chunks that complete no unit are taken in, all of them. -/
theorem fetchUnit_no_unit (cs : List (Byte × Bytes)) (rest : List ReadAnswer) (s : State)
    (hd : rxbufFits s.params (s.rxbuf ++ chunkBytes cs).length = true)
    (hc : cutUnit (s.rxbuf ++ chunkBytes cs) = none) :
    fetchUnit (dataAnswers cs ++ rest) s = fetchUnit rest (afterFills s cs s.rx) := by
  induction cs generalizing s with
  | nil => simp [afterFills]
  | cons c cs ih =>
    obtain ⟨b, bs⟩ := c
    have hn := cutUnit_none_of_append _ _ hc
    have hf : rxbufFits s.params (s.rxbuf.length + (bs.length + 1)) = true :=
        rxbufFits_mono _ _ _ (by simp) hd
    have := ih { s with rxbuf := s.rxbuf ++ (b :: bs), hist := s.hist ++ [.read (.data b bs)] } (by simpa using hd) (by simpa using hc)
    simp only [dataAnswers_cons, List.cons_append, fetchUnit_data b bs _ s hn hf, this, afterFills]
    simp

/-! ### transportWrite -/

/-- R10, R135: everything one TransportWrite can do. -/
theorem transportWrite_cases (bs : Bytes) (s : State) :
    (s.tx = [] ∧ transportWrite bs s = none)
    ∨ (∃ k ks, s.tx = k :: ks ∧ transportWrite bs s
        = some (min k bs.length, { s with tx := ks, hist := s.hist ++ [.write bs (min k bs.length)] })) := by
  cases h : s.tx with
  | nil => exact .inl ⟨rfl, by simp [transportWrite, h]⟩
  | cons k ks => exact .inr ⟨k, ks, rfl, by simp [transportWrite, h, record]⟩

/-! ### Acceptance and the host's write -/

/-- R61, R88: everything acceptance can be. -/
theorem acceptOperation_cases (i : Instr) (s : State) :
    (∃ op opd, isStandalone i op opd ∧ acceptOperation i s = acceptStandalone op opd s)
    ∨ (∃ shape gen cmd, isExchange i shape gen cmd ∧ (gen = true → shape ≠ .zero)
        ∧ acceptOperation i s = acceptExchange shape gen cmd s)
    ∨ (i.port ≠ .host ∧ acceptOperation i s = s) := by
  cases i with
  | encode opd => exact .inl ⟨_, _, .inl ⟨rfl, rfl⟩, rfl⟩
  | decode opd => exact .inl ⟨_, _, .inr (.inl ⟨rfl, rfl⟩), rfl⟩
  | readUnit => exact .inl ⟨_, _, .inr (.inr (.inl ⟨rfl, rfl, rfl⟩)), rfl⟩
  | writeUnit opd => exact .inl ⟨_, _, .inr (.inr (.inr ⟨rfl, rfl⟩)), rfl⟩
  | xchgZero cmd => exact .inr (.inl ⟨_, _, _, .inl ⟨rfl, rfl, rfl⟩, by simp, rfl⟩)
  | xchgOne gen cmd => exact .inr (.inl ⟨_, _, _, .inr (.inl ⟨rfl, rfl⟩), by simp, rfl⟩)
  | xchgMany gen cmd => exact .inr (.inl ⟨_, _, _, .inr (.inr ⟨rfl, rfl⟩), by simp, rfl⟩)
  | ctlReady | ctlDone | line l | frame p => exact .inr (.inr ⟨by simp [Instr.port], rfl⟩)

/-- R36, R89, R209: everything a write of the host can do. -/
theorem csrWrite_cases (s : State) (i : BitVec 3) (v : HostWord) (opd : Bytes) (g : Matcher) :
    csrWrite s i v opd g = s
    ∨ (i = 0#3 ∧ s.busy = false ∧ ∃ op, decodeOp (v.setWidth 8) opd = .ok op
        ∧ csrWrite s i v opd g = acceptOperation op { s with host := ⟨v.setWidth 8, opd, g⟩ :: s.host })
    ∨ (i = 0#3 ∧ s.busy = false ∧ ∃ e, decodeOp (v.setWidth 8) opd = .error e ∧ e.isReserved = true
        ∧ csrWrite s i v opd g = illegalOp { s with host := ⟨v.setWidth 8, opd, g⟩ :: s.host }) := by
  by_cases hi : i = 0#3
  · cases hb : s.busy with
    | true => exact .inl (by simp [csrWrite, hb])
    | false =>
      cases hd : decodeOp (v.setWidth 8) opd with
      | ok op => exact .inr (.inl ⟨hi, rfl, op, rfl, by simp [csrWrite, hi, hb, startCommand, decodeCommand, hd]⟩)
      | error e =>
        cases he : e.isReserved with
        | true => exact .inr (.inr ⟨hi, rfl, e, rfl, he, by simp [csrWrite, hi, hb, startCommand, decodeCommand, hd, he]⟩)
        | false => exact .inl (by simp [csrWrite, hi, hb, startCommand, decodeCommand, hd, he])
  · exact .inl (by simp [csrWrite, hi])

/-- R10: a chunk of one byte is within every transport's contract: RX_CHUNK_MAX is at least 1 (R6). -/
theorem withinContract_single (b : Byte) : (ReadAnswer.data b []).withinContract :=
  Config.rxChunkMax.pos

/-! ### One unit read -/

/-- R132, R165: everything one ReadUnit of an operation in progress can come to. -/
theorem readRow_cases (s : State) :
    (∃ u t r, fetchUnit s.rx s = .found u t ∧ cutUnit t.rxbuf = some (u, r) ∧ readRow s = unitMeaning u t)
    ∨ (∃ k t, fetchUnit s.rx s = .failed k t ∧ (k = .timeoutError ∨ k = .readError) ∧ readRow s = .next (readFailed k t))
    ∨ (∃ t, fetchUnit s.rx s = .waiting t ∧ t.rx = [] ∧ cutUnit t.rxbuf = none ∧ readRow s = .next t)
    ∨ (fetchUnit s.rx s = .overflow ∧ readRow s = .refused .rxbufOverflow) := by
  obtain ⟨cs, rest, hrx, _, ⟨u, r, hc, h⟩ | ⟨a, k, rest', _, _, hk, h⟩ | ⟨_, hc, h⟩ | ⟨_, _, _, _, _, _, h⟩⟩ :=
    fetchUnit_cases s.rx s
  · exact .inl ⟨u, _, r, h, hc, by simp [readRow, h]⟩
  · refine .inr (.inl ⟨k, _, h, ?_, by simp [readRow, h]⟩)
    obtain ⟨_, rfl⟩ | ⟨_, rfl⟩ := hk
    · exact .inl rfl
    · exact .inr rfl
  · exact .inr (.inr (.inl ⟨_, h, rfl, hc, by simp [readRow, h]⟩))
  · exact .inr (.inr (.inr ⟨h, by simp [readRow, h]⟩))

end Sys2Proof.Machine
end

