-- ==== Sys2Proof/Laws/Exchange.lean ====
section
/-! SUPPORT. How the rows of an exchange follow one another under drive: one lemma for each stretch of R165 that a whole
exchange is made of (the command, one unit, one line accepted, all the lines accepted, a read that fails, the error exit). -/

namespace Sys2Proof.Machine

/-! ### drive as a sequence of rows -/

/-- Driving from `s` comes to driving from `t` after `m` rows. -/
def Drives (m : Nat) (s t : State) : Prop :=
  ∀ n, drive (n + m) s = drive n t

theorem Drives.refl (s : State) : Drives 0 s s :=
  fun _ => rfl

theorem Drives.trans {m k : Nat} {s t u : State} (h : Drives m s t) (h' : Drives k t u) : Drives (m + k) s u := by
  intro n
  rw [show n + (m + k) = (n + k) + m by omega, h, h']

/-- R165: one row that neither ends the operation nor waits for the environment. -/
theorem Drives.one {s t : State} (hi : s.seq ≠ .idle) (hw : waits s = false) (h : seqRow s = .next t) : Drives 1 s t := by
  intro n
  simp [drive, hi, hw, h]

/-- R152: a complete operation is driven no further. -/
theorem drive_of_idle (n : Nat) (s : State) (h : s.seq = .idle) : drive n s = .next s := by
  cases n <;> simp [drive, h]

/-- Drain of an exchange accepted by an idle block, and R88: XCHG_ZERO has no GEN bit. -/
theorem exec_exchange {i : Instr} {shape : Shape} {gen : Bool} {cmd : Bytes} {s : State} (h : isExchange i shape gen cmd)
    (hb : s.busy = false) :
    exec i s = drive (rowBound s) (acceptExchange shape gen cmd s) ∧ (gen = true → shape ≠ .zero) := by
  obtain ⟨rfl, rfl, rfl⟩ | ⟨rfl, rfl⟩ | ⟨rfl, rfl⟩ := h <;>
    simp [exec, execXchgZero, execXchgOne, execXchgMany, exchange, hb]

/-- R30: a standalone operation accepted by an idle block runs the row EXEC. -/
theorem exec_standalone {i : Instr} {op : Standalone} {opd : Bytes} {s : State} (h : isStandalone i op opd)
    (hb : s.busy = false) : exec i s = seqRow (acceptStandalone op opd s) := by
  obtain ⟨rfl, rfl⟩ | ⟨rfl, rfl⟩ | ⟨rfl, rfl, rfl⟩ | ⟨rfl, rfl⟩ := h <;>
    simp [exec, execEncode, execDecode, execReadUnit, execWriteUnit, hb, seqRow, execRow, acceptStandalone]

/-! ### One unit -/

/-- R211: a state that reads a unit is not blocked when the chunks to come complete one. -/
theorem waits_eq_false_of_unit {s : State} {cs : List (Byte × Bytes)} {rest : List ReadAnswer} {u : RxUnit} {left : Bytes}
    (hs : s.seq = .waitReady ∨ s.seq = .read) (hrx : s.rx = dataAnswers cs ++ rest)
    (hc : cutUnit (s.rxbuf ++ chunkBytes cs) = some (u, left)) : waits s = false := by
  have : (s.rx.isEmpty && (cutUnit s.rxbuf).isNone) = false := by
    cases cs with
    | nil =>
      rw [chunkBytes_nil, List.append_nil] at hc
      simp [hc]
    | cons c cs =>
      obtain ⟨b, bs⟩ := c
      simp [hrx]
  obtain h | h := hs <;> simp [waits, h, this]

/-- R132, R165: in a state that reads a unit, the unit that the chunks complete acts by its own meaning. -/
theorem seqRow_of_unit {s : State} {cs : List (Byte × Bytes)} {rest : List ReadAnswer} {u : RxUnit} {left : Bytes}
    (hs : s.seq = .waitReady ∨ s.seq = .read) (hrx : s.rx = dataAnswers cs ++ rest)
    (hfit : rxbufFits s.params (s.rxbuf ++ chunkBytes cs).length = true)
    (hS : s.rxbuf ++ chunkBytes cs = u.bytes ++ left) (hl : ∀ l, u = .line l → lineOk l = true) :
    ∃ cs1 cs2 r, cs = cs1 ++ cs2 ∧ r ++ chunkBytes cs2 = left ∧ s.rxbuf ++ chunkBytes cs1 = u.bytes ++ r
      ∧ waits s = false ∧ seqRow s = unitMeaning u (afterFills s cs1 (dataAnswers cs2 ++ rest)) := by
  have hc : cutUnit (s.rxbuf ++ chunkBytes cs) = some (u, left) := (cutUnit_eq_some_iff _ _ _).mpr ⟨hS, hl⟩
  obtain ⟨cs1, cs2, r1, h1, h2, h3, _, h4⟩ := fetchUnit_of_stream cs rest s u left hfit hc
  refine ⟨cs1, cs2, r1, h1, h3, ((cutUnit_eq_some_iff _ _ _).mp h2).1, waits_eq_false_of_unit hs hrx hc, ?_⟩
  have : seqRow s = readRow s := by obtain h | h := hs <;> simp [seqRow, h]
  rw [this, readRow, hrx, h4]

/-- R131, R134, R165: in a state that reads a unit, a read that fails before one is whole raises its kind. -/
theorem drives_of_failed_read {s : State} {cs : List (Byte × Bytes)} {rest : List ReadAnswer} {k : Kind}
    (hs : s.seq = .waitReady ∨ s.seq = .read) (hrx : s.rx = dataAnswers cs ++ rest)
    (hfit : rxbufFits s.params (s.rxbuf ++ chunkBytes cs).length = true)
    (hf : readFails (s.rxbuf ++ chunkBytes cs) rest k) :
    k ≠ .ok ∧ ∃ a rest', Drives 1 s (raise k [] { s with
      rxbuf := s.rxbuf ++ chunkBytes cs, rx := rest', hist := s.hist ++ (dataAnswers cs ++ [a]).map Event.read }) := by
  obtain ⟨hc, rest', hk⟩ := hf
  have hrow : seqRow s = readRow s := by obtain h | h := hs <;> simp [seqRow, h]
  have hne : s.rx.isEmpty = false := by
    rw [hrx]
    obtain ⟨rfl, _⟩ | ⟨rfl, _⟩ := hk <;> (cases cs <;> simp)
  have hw : waits s = false := by obtain h | h := hs <;> simp [waits, h, hne]
  have hi : s.seq ≠ .idle := by obtain h | h := hs <;> simp [h]
  have hfetch := fetchUnit_no_unit cs rest s hfit hc
  have hc' : cutUnit (afterFills s cs s.rx).rxbuf = none := by simpa [afterFills] using hc
  obtain ⟨rfl, rfl⟩ | ⟨rfl, rfl⟩ := hk
  · refine ⟨by simp, .timeout, rest', Drives.one hi hw ?_⟩
    rw [hrow, readRow, hrx, hfetch]
    simp only [fetchUnit, hc', fill]
    obtain h | h := hs <;> simp [readFailed, h, record, afterFills, raise]
  · refine ⟨by simp, .eos, rest', Drives.one hi hw ?_⟩
    rw [hrow, readRow, hrx, hfetch]
    simp only [fetchUnit, hc', fill]
    obtain h | h := hs <;> simp [readFailed, h, record, afterFills, raise]

/-! ### The command and the error exit -/

/-- R153, R165: the rows ENC and TX of a command that is encoded and accepted in full. -/
theorem drives_command (s : State) (shape : Shape) (gen : Bool) (cmd : Bytes) (k : Nat) (ks : List Nat)
    (hv : validPayload cmd) (ht : s.tx = k :: ks) (hk : cmd.length + 6 ≤ k) :
    Drives 2 (acceptExchange shape gen cmd s) { acceptExchange shape gen cmd s with
      csum := xorfold cmd, len := lenCount cmd.length, frm := frameOf cmd, seq := .waitReady, tx := ks
      hist := s.hist ++ [Event.write (frameOf cmd) (cmd.length + 6)] } := by
  have he : encodePayload cmd = some (frameOf cmd) := (encodePayload_eq_some_iff _ _).mpr ⟨hv.1, hv.2.1, hv.2.2, rfl⟩
  have hm : min k (cmd.length + 6) = cmd.length + 6 := by omega
  refine Drives.trans (m := 1) (k := 1)
    (t := { acceptExchange shape gen cmd s with
      csum := xorfold cmd, len := lenCount cmd.length, frm := frameOf cmd, seq := .tx })
    (Drives.one (by simp [acceptExchange]) (by simp [waits, acceptExchange]) ?_)
    (Drives.one (by simp) (by simp [waits, acceptExchange, accept, acceptFlags, dropCommand, ht]) ?_)
  · simp [acceptExchange, accept, seqRow, encRow, he, encodeScratch]
  · simp [seqRow, txRow, transportWrite, acceptExchange, accept, acceptFlags, dropCommand, ht, record, hm]

/-- R165: the row FLUSH. -/
theorem drives_errorExit {s : State} {e : Raise} (hs : s.seq = .flush) (hr : s.raised = e) : Drives 1 s (errorExit e s) :=
  Drives.one (by simp [hs]) (by simp [waits, hs]) (by simp [seqRow, hs, hr])

/-! ### Lines -/

theorem isDrainEvent_of_reads (as : List ReadAnswer) : ∀ e ∈ as.map Event.read, isDrainEvent e := by
  intro e he
  simp only [List.mem_map] at he
  obtain ⟨a, _, rfl⟩ := he
  exact .inl ⟨a, rfl⟩

/-- R155, R165: the row READ on a line: it is kept and goes to DEC. -/
theorem drives_line_kept {s : State} {l left : Bytes} {cs : List (Byte × Bytes)} {rest : List ReadAnswer}
    (hs : s.seq = .read) (hrx : s.rx = dataAnswers cs ++ rest)
    (hfit : rxbufFits s.params (s.rxbuf ++ chunkBytes cs).length = true) (hl : lineOk l = true)
    (hS : s.rxbuf ++ chunkBytes cs = l ++ left) :
    ∃ cs1 cs2 r, cs = cs1 ++ cs2 ∧ r ++ chunkBytes cs2 = left ∧ Drives 1 s { s with
      rxbuf := r, line := l, seq := .dec, rx := dataAnswers cs2 ++ rest
      hist := s.hist ++ (dataAnswers cs1).map Event.read } := by
  obtain ⟨cs1, cs2, r, hcs, hst, hbuf, hw, hrow⟩ :=
    seqRow_of_unit (u := .line l) (.inr hs) hrx hfit hS (by rintro _ ⟨⟩; exact hl)
  simp only [RxUnit.bytes] at hbuf
  refine ⟨cs1, cs2, r, hcs, hst, Drives.one (by simp [hs]) hw ?_⟩
  rw [hrow]
  simp [unitMeaning, execLine, afterFills, hs, dropRx, hbuf]

/-- R157, R158, R165: the rows DEC and MATCH on a kept line that yields an item: YIELD is reached with the item; when there
is a matcher it was asked once. -/
theorem drives_decoded {s : State} {l : Bytes} {it : Item} (hs : s.seq = .dec) (hline : s.line = l)
    (hy : lineYields s.params.hexLowerOk s.gen s.gsel l it) :
    ∃ m evs, m ≤ 2 ∧ (∀ e ∈ evs, isDrainEvent e) ∧ rxTaken evs = [] ∧ Drives m s { s with
      csum := xorfold it.payload, len := lenCount it.payload.length, pay := it.payload, item := it, seq := .yield
      hist := s.hist ++ evs } := by
  obtain ⟨_, hd, hg⟩ := hy
  subst hline
  obtain ⟨p, rec⟩ := it
  simp only at hd hg
  obtain ⟨hgen, rfl⟩ | ⟨hgen, r, hv, rfl⟩ := hg
  · refine ⟨1, [], by omega, by simp, rfl, Drives.one (by simp [hs]) (by simp [waits, hs]) ?_⟩
    simp [seqRow, hs, decRow, hd, execFrame, hgen]
  · refine ⟨2, [.matched p (.hit r)], by omega, by simp [isDrainEvent], rfl, Drives.trans (m := 1) (k := 1)
      (t := { s with csum := xorfold p, len := lenCount p.length, pay := p, seq := .matchRec })
      (Drives.one (by simp [hs]) (by simp [waits, hs]) ?_) (Drives.one (by simp) (by simp [waits]) ?_)⟩
    · simp [seqRow, hs, decRow, hd, execFrame, hgen]
    · simp [seqRow, matchRow, askMatcher, hv, record]

/-- R159 to R162, R165: the row YIELD when the call shape allows one more item. -/
theorem drives_yielded {s : State} (hs : s.seq = .yield) (hcount : s.itemcnt = s.items.length)
    (ha : shapeAllows s.shape (s.itemcnt + 1)) :
    Drives 1 s { s with items := s.items ++ [s.item], itemcnt := s.itemcnt + 1, seq := .read } := by
  refine Drives.one (by simp [hs]) (by simp [waits, hs]) ?_
  simp only [seqRow, hs, yieldRow]
  cases hsh : s.shape with
  | zero => simp [hsh, shapeAllows] at ha
  | one =>
    simp only [hsh, shapeAllows] at ha
    have h0 : s.itemcnt = 0 := by omega
    have hn : s.items = [] := List.length_eq_zero_iff.mp (by omega)
    simp [h0, hn]
  | many => simp

/-- What a stretch of accepted lines leaves of a state in READ: the scratch and kept registers may differ, ITEMS and ITEMCNT
have grown, and the rest of the stream is still to come. -/
structure AfterItems (s t : State) (cs : List (Byte × Bytes)) (rest : List ReadAnswer) (left : Bytes) (evs : List Event) :
    Prop where
  eq : t = { s with
    rxbuf := t.rxbuf, csum := t.csum, len := t.len, line := t.line, pay := t.pay, item := t.item, items := t.items
    itemcnt := t.itemcnt, rx := dataAnswers cs ++ rest, hist := s.hist ++ evs }
  stream : t.rxbuf ++ chunkBytes cs = left
  fits : rxbufFits s.params (t.rxbuf ++ chunkBytes cs).length = true
  drain : ∀ e ∈ evs, isDrainEvent e

theorem AfterItems.frame {s t : State} {cs : List (Byte × Bytes)} {rest : List ReadAnswer} {left : Bytes}
    {evs : List Event} (h : AfterItems s t cs rest left evs) :
    t.seq = s.seq ∧ t.rx = dataAnswers cs ++ rest ∧ t.params = s.params ∧ t.gen = s.gen ∧ t.gsel = s.gsel
      ∧ t.shape = s.shape := by
  have := h.eq
  refine ⟨?_, ?_, ?_, ?_, ?_, ?_⟩ <;> (rw [this])

theorem shapeAllows_of_le {sh : Shape} {a b : Nat} (h : a ≤ b) (hb : shapeAllows sh b) : shapeAllows sh a := by
  cases sh <;> simp only [shapeAllows] at * <;> omega

/-- R155 to R162: one line accepted: at most four rows, one more item, back in READ. -/
theorem drives_of_line (s : State) (l left : Bytes) (it : Item) (cs : List (Byte × Bytes)) (rest : List ReadAnswer)
    (hs : s.seq = .read) (hrx : s.rx = dataAnswers cs ++ rest)
    (hfit : rxbufFits s.params (s.rxbuf ++ chunkBytes cs).length = true) (hS : s.rxbuf ++ chunkBytes cs = l ++ left)
    (hy : lineYields s.params.hexLowerOk s.gen s.gsel l it) (hcount : s.itemcnt = s.items.length)
    (ha : shapeAllows s.shape (s.itemcnt + 1)) :
    ∃ m t cs1 cs2 evs, m ≤ 4 ∧ Drives m s t ∧ cs = cs1 ++ cs2 ∧ rxTaken evs = chunkBytes cs1
      ∧ AfterItems s t cs2 rest left evs ∧ t.items = s.items ++ [it] ∧ t.itemcnt = s.itemcnt + 1 := by
  obtain ⟨cs1, cs2, r, hcs, hst, d1⟩ := drives_line_kept hs hrx hfit hy.1 hS
  obtain ⟨m, evs, hm, hev, htk, d2⟩ := drives_decoded (s := { s with
    rxbuf := r, line := l, seq := .dec, rx := dataAnswers cs2 ++ rest
    hist := s.hist ++ (dataAnswers cs1).map Event.read }) rfl rfl hy
  have d3 := drives_yielded (s := { s with
    rxbuf := r, line := l, rx := dataAnswers cs2 ++ rest, csum := xorfold it.payload
    len := lenCount it.payload.length, pay := it.payload, item := it, seq := .yield
    hist := s.hist ++ (dataAnswers cs1).map Event.read ++ evs }) rfl hcount ha
  refine ⟨1 + m + 1, _, cs1, cs2, (dataAnswers cs1).map Event.read ++ evs, by omega, (d1.trans d2).trans d3, hcs,
    by simp [htk], ⟨?_, hst, ?_, ?_⟩, rfl, rfl⟩
  · simp [hs]
  · refine rxbufFits_mono _ _ _ ?_ hfit
    simp only [hst, hS, List.length_append]
    omega
  · intro e he
    obtain h | h := List.mem_append.mp he
    · exact isDrainEvent_of_reads _ e h
    · exact hev e h

/-- R152: any number of lines accepted. -/
theorem drives_of_lines (ls : List Bytes) (its : List Item) (lower gen : Bool) (g : Matcher) (s : State)
    (cs : List (Byte × Bytes)) (rest : List ReadAnswer) (tail : Bytes) (hl : s.params.hexLowerOk = lower)
    (hg : s.gen = gen) (hgs : s.gsel = g) (hs : s.seq = .read) (hrx : s.rx = dataAnswers cs ++ rest)
    (hfit : rxbufFits s.params (s.rxbuf ++ chunkBytes cs).length = true)
    (hS : s.rxbuf ++ chunkBytes cs = ls.flatten ++ tail) (hy : List.Forall₂ (lineYields lower gen g) ls its)
    (hcount : s.itemcnt = s.items.length) (ha : shapeAllows s.shape (s.itemcnt + its.length)) :
    ∃ m t cs1 cs2 evs, m ≤ 4 * ls.length ∧ Drives m s t ∧ cs = cs1 ++ cs2 ∧ rxTaken evs = chunkBytes cs1
      ∧ AfterItems s t cs2 rest tail evs ∧ t.items = s.items ++ its ∧ t.itemcnt = s.itemcnt + its.length := by
  induction hy generalizing s cs with
  | nil =>
    exact ⟨0, s, [], cs, [], by simp, Drives.refl s, rfl, rfl,
      ⟨by simp [← hrx], by simpa using hS, hfit, by simp⟩, by simp, by simp⟩
  | @cons l it ls its h hy ih =>
    obtain ⟨m, t, cs1, cs2, evs, hm, d, hcs, htk, hA, hi1, hi2⟩ := drives_of_line s l (ls.flatten ++ tail) it cs rest
      hs hrx hfit (by simpa using hS) (by rw [hl, hg, hgs]; exact h) hcount (shapeAllows_of_le (by simp) ha)
    obtain ⟨f1, f2, f3, f4, f5, f6⟩ := hA.frame
    obtain ⟨m', t', cs1', cs2', evs', hm', d', hcs', htk', hA', hi1', hi2'⟩ := ih t cs2 (by rw [f3]; exact hl)
      (f4.trans hg) (f5.trans hgs) (f1.trans hs) f2 (by rw [f3]; exact hA.fits) hA.stream (by simp [hi1, hi2, hcount])
      (by rw [f6, hi2]; simpa [Nat.add_assoc, Nat.add_comm, Nat.add_left_comm] using ha)
    refine ⟨m + m', t', cs1 ++ cs1', cs2', evs ++ evs', by simp only [List.length_cons]; omega, d.trans d',
      by simp [hcs, hcs'], by simp [htk, htk'], ⟨?_, hA'.stream, ?_, ?_⟩, by simp [hi1, hi1'], ?_⟩
    · have e := hA'.eq
      rw [hA.eq] at e
      simpa using e
    · rw [← f3]
      exact hA'.fits
    · intro e he
      exact (List.mem_append.mp he).elim (hA.drain e) (hA'.drain e)
    · simp only [hi2, hi2', List.length_cons]
      omega

/-! ### The bound on the rows -/

theorem answerBytes_dataAnswers (cs : List (Byte × Bytes)) (rest : List ReadAnswer) :
    answerBytes (dataAnswers cs ++ rest) = (chunkBytes cs).length + answerBytes rest := by
  induction cs with
  | nil => simp
  | cons c cs ih =>
    obtain ⟨b, bs⟩ := c
    simp only [dataAnswers_cons, List.cons_append, answerBytes, ih, chunkBytes_cons, List.length_cons, List.length_append]
    omega

/-- R133: a line takes at least one byte. -/
theorem length_le_flatten_of_yields {ls : List Bytes} {its : List Item} {lower gen : Bool} {g : Matcher}
    (hy : List.Forall₂ (lineYields lower gen g) ls its) : ls.length ≤ ls.flatten.length := by
  induction hy with
  | nil => simp
  | @cons l it ls its h hy ih =>
    have : 0 < l.length := by
      cases l with
      | nil => exact absurd h.1 (by decide)
      | cons => simp
    simp only [List.flatten_cons, List.length_append, List.length_cons]
    omega

end Sys2Proof.Machine
end

