-- ==== Sys2Proof/Laws/PerInstr.lean ====
section
/-! SUPPORT. A law of every instruction: what the first byte of its encoding says of the rest (30_encoding.md R80, R81, R85,
R88). One lemma per constructor of Instr. -/

namespace Sys2Proof.Laws.FirstByte

/-- The encoding of a well-formed instruction starts with a byte that tells, at its port, how it goes on: an operation word
whose reserved bits are 0 and whose EMPTY bit says whether an operand follows; a control byte, alone, or a byte that is none
and then a line up to its LF; a frame from SOF to LF. -/
def Statement (i : Instr) : Prop :=
  i.wf = true → ∃ b bs, encode i = b :: bs ∧
    match i.port with
    | .host => opReserved b = 0#2 ∧ (opEmpty b = true ↔ bs = [])
    | .unit => (isctl b = true → bs = []) ∧ (isctl b = false → (b :: bs).getLast? = some Config.lf)
    | .frame => b = Config.sof ∧ bs.getLast? = some Config.lf

theorem word_fields : ∀ (e g : Bool) (o : BitVec 4),
    opReserved (opWord e g o) = 0#2 ∧ opEmpty (opWord e g o) = e := by decide

/-- R88: an operation word and its operand. -/
theorem word_form (gen : Bool) (opc : BitVec 4) (opd : Bytes) : ∃ b bs, opBytes gen opc opd = b :: bs
    ∧ opReserved b = 0#2 ∧ (opEmpty b = true ↔ bs = []) := by
  obtain ⟨h1, h2⟩ := word_fields opd.isEmpty gen opc
  exact ⟨_, _, rfl, h1, by rw [h2, List.isEmpty_iff]⟩

theorem encode (opd : Bytes) : Statement (.encode opd) := fun _ => word_form false 0x1#4 opd
theorem decode (opd : Bytes) : Statement (.decode opd) := fun _ => word_form false 0x2#4 opd
theorem readUnit : Statement .readUnit := fun _ => word_form false 0x3#4 []
theorem writeUnit (opd : Bytes) : Statement (.writeUnit opd) := fun _ => word_form false 0x4#4 opd
theorem xchgZero (opd : Bytes) : Statement (.xchgZero opd) := fun _ => word_form false 0x8#4 opd
theorem xchgOne (gen : Bool) (opd : Bytes) : Statement (.xchgOne gen opd) := fun _ => word_form gen 0x9#4 opd
theorem xchgMany (gen : Bool) (opd : Bytes) : Statement (.xchgMany gen opd) := fun _ => word_form gen 0xA#4 opd
theorem ctlReady : Statement .ctlReady := fun _ => ⟨_, _, rfl, by decide, by decide⟩
theorem ctlDone : Statement .ctlDone := fun _ => ⟨_, _, rfl, by decide, by decide⟩

theorem line (l : Bytes) : Statement (.line l) := by
  intro h
  simp only [Instr.wf, lineOk, lineEndsInLf, lineHeadNotCtl, Bool.and_eq_true, beq_iff_eq, bne_iff_ne] at h
  cases l with
  | nil => simp at h
  | cons b bs =>
    refine ⟨b, bs, rfl, fun hb => ?_, fun _ => h.1.1⟩
    simp only [isctl, Bool.or_eq_true, beq_iff_eq] at hb
    simp only [List.head?_cons, ne_eq, Option.some.injEq] at h
    exact absurd hb (by simp [h.2])

theorem frame (p : Bytes) : Statement (.frame p) :=
  fun _ => ⟨Config.sof, p ++ [Config.sep, hexhi (xorfold p), hexlo (xorfold p), Config.cr, Config.lf], rfl, rfl, by simp⟩

end Sys2Proof.Laws.FirstByte
end

