-- ==== Sys2Proof/Tests/Slice0.lean ====
section
/-! SUPPORT. Tests. The words are written out from the encodings of 30_encoding.md R80, R81, R88; the expected results are
those of 95_test_vectors.md (the row is named in each comment). For every obligation with hypotheses one theorem `witness_…`
shows states and operands that meet them, clause by clause. -/

namespace Sys2Proof.Tests

open Sys2Proof.Machine

/-! ### Helpers -/

/-- One field of the next state, if there is one. -/
def got {α : Type} (f : State → α) (r : Result) : Option α :=
  match r with
  | .next t => some (f t)
  | .fault _ => none
  | .refused _ => none

/-- An idle block with this transport script. -/
def idle (tx : List Nat) (rx : List ReadAnswer) : State :=
  { State.reset with tx := tx, rx := rx }

/-- A block in this state of an operation in progress. -/
def at' (q : Seq) : State :=
  { State.reset with busy := true, seq := q }

/-- `"$A*41\r\n"`. -/
def frameA : Bytes := [0x24#8, 0x41#8, 0x2A#8, 0x34#8, 0x31#8, 0x0D#8, 0x0A#8]

/-- `"$B*42\r\n"`. -/
def frameB : Bytes := [0x24#8, 0x42#8, 0x2A#8, 0x34#8, 0x32#8, 0x0D#8, 0x0A#8]

/-- A matcher that accepts `"A"` only. -/
def onlyA : Matcher := ⟨[([0x41#8], .hit ⟨7⟩)], .miss⟩

def noMatcher : Matcher := ⟨[], .miss⟩

/-- The answer that delivers READY and then these bytes. -/
def readyThen (bs : Bytes) : List ReadAnswer := [.data 0x11#8 bs]

/-! ### Decoding, words written out bit by bit -/

-- e0000001 with e = 0: 0x01, the operand follows.
theorem test_decode_word_encode : decode .host false [0b00000001#8, 0x41#8] = .ok (.encode [0x41#8], []) := by decide
-- e0000010 with e = 1: 0x82.
theorem test_decode_word_decode : decode .host false [0b10000010#8] = .ok (.decode [], []) := by decide
-- 10000011: 0x83.
theorem test_decode_word_readUnit : decode .host false [0b10000011#8] = .ok (.readUnit, []) := by decide
-- e0000100.
theorem test_decode_word_writeUnit : decode .host false [0b00000100#8, 0x11#8] = .ok (.writeUnit [0x11#8], []) := by decide
-- e0001000.
theorem test_decode_word_xchgZero : decode .host false [0b00001000#8, 0x51#8] = .ok (.xchgZero [0x51#8], []) := by decide
-- e00g1001 with g = 1: 0x19.
theorem test_decode_word_xchgOne : decode .host false [0b00011001#8, 0x51#8] = .ok (.xchgOne true [0x51#8], []) := by decide
-- e00g1010 with e = 1, g = 0: 0x8A.
theorem test_decode_word_xchgMany : decode .host false [0b10001010#8] = .ok (.xchgMany false [], []) := by decide
-- 00010001 at the head of the stream.
theorem test_decode_ctlReady : decode .unit false [0b00010001#8, 0x24#8] = .ok (.ctlReady, [0x24#8]) := by decide
-- 00010011 at the head of the stream.
theorem test_decode_ctlDone : decode .unit false [0b00010011#8] = .ok (.ctlDone, []) := by decide
-- V-RU 7: a control value inside a line is data.
theorem test_decode_line : decode .unit false [0x61#8, 0x11#8, 0x0A#8, 0x13#8]
    = .ok (.line [0x61#8, 0x11#8, 0x0A#8], [0x13#8]) := by decide
-- V-DEC 1.
theorem test_decode_frame : decode .frame false frameA = .ok (.frame [0x41#8], []) := by decide
-- V-ILL: 0x00, 0x21, 0x11, 0x03.
theorem test_decode_reserved_words :
    decode .host false [0x00#8, 0x51#8] = .error .reservedOpc ∧ decode .host false [0x21#8, 0x51#8] = .error .reservedBits
    ∧ decode .host false [0x11#8, 0x51#8] = .error .genNotAllowed
    ∧ decode .host false [0x03#8, 0x51#8] = .error .operandNotAllowed := by decide
-- V-DEC 2 and 4.
theorem test_decode_bad_frames :
    decode .frame false (frameA.set 4 0x30#8) = .error .checksumMismatch
    ∧ decode .frame false [0x24#8, 0x2A#8, 0x30#8, 0x30#8, 0x0D#8, 0x0A#8] = .error .notAFrame := by decide
-- V-ENC 4: "~" gives 24 7E 2A 37 45 0D 0A.
theorem test_encode_frame : encode (.frame [0x7E#8]) = [0x24#8, 0x7E#8, 0x2A#8, 0x37#8, 0x45#8, 0x0D#8, 0x0A#8] := by decide

/-! ### Ill-formed instructions are refused -/

theorem test_wf_line_without_lf : (Instr.line [0x61#8]).wf = false := by decide
theorem test_wf_line_inner_lf : (Instr.line [0x61#8, 0x0A#8, 0x62#8, 0x0A#8]).wf = false := by decide
theorem test_wf_line_head_ready : (Instr.line [0x11#8, 0x0A#8]).wf = false := by decide
theorem test_wf_line_head_done : (Instr.line [0x13#8, 0x0A#8]).wf = false := by decide
theorem test_wf_frame_empty : (Instr.frame []).wf = false := by decide
theorem test_wf_frame_long : (Instr.frame (List.replicate 80 0x41#8)).wf = false := by decide

/-! ### One step of each instruction -/

-- V-ENC 1 and 26: STATUS 0x000A and 0x0086.
theorem test_encode_ok : got (fun t => (t.res, csrRead t 1#3)) (exec (.encode [0x41#8]) State.reset)
    = some (frameA, 0x000A#16) := by decide
theorem test_encode_error : got (fun t => (t.errtext, csrRead t 1#3)) (exec (.encode [0x7F#8]) State.reset)
    = some ([0x7F#8], 0x0086#16) := by decide
-- V-DEC 5 and 2.
theorem test_decode_ok :
    got (fun t => (t.res, csrRead t 1#3))
      (exec (.decode [0x24#8, 0x80#8, 0x01#8, 0x2A#8, 0x38#8, 0x31#8, 0x0D#8, 0x0A#8]) State.reset)
    = some ([0x80#8, 0x01#8], 0x000A#16) := by decide
theorem test_decode_error : got (fun t => (t.errtext, csrRead t 1#3)) (exec (.decode (frameA.set 4 0x30#8)) State.reset)
    = some (frameA.set 4 0x30#8, 0x00A6#16) := by decide
-- V-RU 4 and 17.
theorem test_readUnit_ctl : got (fun t => (t.res, t.rxbuf, csrRead t 1#3))
    (exec .readUnit (idle [] [.data 0x13#8 [0x11#8]])) = some ([0x13#8], [0x11#8], 0x000A#16) := by decide
theorem test_readUnit_timeout : got (fun t => (t.rxbuf, csrRead t 1#3))
    (exec .readUnit { idle [] [.timeout] with rxbuf := [0x61#8] }) = some ([0x61#8], 0x0026#16) := by decide
-- V-WU 1 and 2.
theorem test_writeUnit_all : got (fun t => (txStream t.hist, csrRead t 1#3)) (exec (.writeUnit frameA) (idle [7] []))
    = some (frameA, 0x0002#16) := by decide
theorem test_writeUnit_short : got (fun t => (txStream t.hist, csrRead t 1#3)) (exec (.writeUnit frameA) (idle [3] []))
    = some ([0x24#8, 0x41#8, 0x2A#8], 0x0066#16) := by decide
-- R160: READY then DONE; READY then a frame.
theorem test_xchgZero_ok : got (fun t => (t.items, csrRead t 1#3))
    (exec (.xchgZero [0x51#8]) (idle [7] (readyThen [0x13#8]))) = some ([], 0x0002#16) := by decide
theorem test_xchgZero_item : got (fun t => (t.errtext, t.itemcnt, csrRead t 1#3))
    (exec (.xchgZero [0x51#8]) (idle [7] (readyThen (frameA ++ [0x13#8])))) = some (frameA, 0, 0x00C6#16) := by decide
-- R161, worked example; P3.
theorem test_xchgOne_ok : got (fun t => (t.items, csrRead t 1#3))
    (exec (.xchgOne false [0x51#8]) (idle [7] (readyThen (frameA ++ [0x13#8]))))
    = some ([⟨[0x41#8], none⟩], 0x000A#16) := by decide
theorem test_xchgOne_two : got (fun t => (t.errtext, t.itemcnt, csrRead t 1#3))
    (exec (.xchgOne false [0x51#8]) (idle [7] (readyThen (frameA ++ frameB ++ [0x13#8]))))
    = some (frameB, 1, 0x00C6#16) := by decide
-- P6 step 1 (what follows DONE stays); P7 in small (the matcher rejects the second line).
theorem test_xchgMany_ok : got (fun t => (t.itemcnt, t.rxbuf, csrRead t 1#3))
    (exec (.xchgMany false [0x51#8]) (idle [7] (readyThen (frameA ++ [0x13#8, 0x0A#8]))))
    = some (1, [0x0A#8], 0x0002#16) := by decide
theorem test_xchgMany_miss : got (fun t => (t.errtext, t.itemcnt, csrRead t 6#3))
    (exec (.xchgMany true [0x51#8]) { idle [7] (readyThen (frameA ++ frameB ++ [0x13#8])) with
      host := [⟨0x1A#8, [0x51#8], onlyA⟩] }) = some (frameB, 1, 0x0006#16) := by decide
-- R154, R156: READY where it is awaited and where it is not.
theorem test_ctlReady_awaited : got State.seq (exec .ctlReady { at' .waitReady with rxbuf := [0x11#8] }) = some .read := by
  decide
theorem test_ctlReady_second : got State.raised (exec .ctlReady { at' .read with rxbuf := [0x11#8] })
    = some ⟨.protocolError, [0x11#8]⟩ := by decide
-- R155, R154.
theorem test_ctlDone_read : got (fun t => csrRead t 1#3)
    (exec .ctlDone { at' .read with shape := .one, itemcnt := 1, rxbuf := [0x13#8] }) = some 0x000A#16 := by decide
theorem test_ctlDone_first : got State.raised (exec .ctlDone { at' .waitReady with rxbuf := [0x13#8] })
    = some ⟨.protocolError, [0x13#8]⟩ := by decide
-- R155, and S6: a line before READY.
theorem test_line_read : got (fun t => (t.line, t.rxbuf)) (exec (.line frameA) { at' .read with rxbuf := frameA ++ [0x13#8] })
    = some (frameA, [0x13#8]) := by decide
theorem test_line_first : got State.raised (exec (.line frameA) { at' .waitReady with rxbuf := frameA })
    = some ⟨.protocolError, frameA⟩ := by decide
-- R157, R158.
theorem test_frame_gen : got (fun t => (t.pay, t.seq, t.csum)) (exec (.frame [0x41#8]) { at' .dec with gen := true })
    = some ([0x41#8], .matchRec, 0x41#8) := by decide
theorem test_frame_raw : got (fun t => (t.item, t.seq)) (exec (.frame [0x41#8]) (at' .dec))
    = some (⟨[0x41#8], none⟩, .yield) := by decide
-- V-ILL: word 0x18, RXBUF unchanged.
theorem test_reserved_word : got (fun t => (t.rxbuf, csrRead t 1#3))
    (step { State.reset with rxbuf := [0x7A#8], host := [⟨0x18#8, [0x51#8], noMatcher⟩] })
    = some ([0x7A#8], 0x00E6#16) := by decide

/-! ### Witnesses: states and operands that meet the hypotheses of each obligation -/

/-- What reset is applied to in `witness_reset`: a block in the middle of an operation. -/
theorem witness_reset : (at' .read).applyReset = (at' .read).applyReset ∧ State.reset = State.reset
    ∧ (at' .read).busy = true := by decide

-- Payloads of 1 and 79 bytes, of the least and the greatest printable byte.
theorem witness_encode_valid : State.reset.busy = false ∧ validPayload [0x20#8]
    ∧ validPayload (List.replicate 79 0x7E#8) := by
  refine ⟨by decide, ⟨by decide, by decide, by decide⟩, ⟨by decide, by decide, by decide⟩⟩

-- Payloads of 0 and 80 bytes, and with a byte just outside the range.
theorem witness_encode_invalid : ¬ validPayload [] ∧ ¬ validPayload (List.replicate 80 0x41#8)
    ∧ ¬ validPayload [0x1F#8] ∧ ¬ validPayload [0x7F#8] := by
  refine ⟨fun h => ?_, fun h => ?_, fun h => ?_, fun h => ?_⟩
  · exact absurd h.1 (by decide)
  · exact absurd h.2.1 (by decide)
  · exact absurd (h.2.2 0x1F#8 (by decide)) (by decide)
  · exact absurd (h.2.2 0x7F#8 (by decide)) (by decide)

-- Frames with a payload of 1 and of 79 bytes ("0", V-DEC 11).
theorem witness_decode_frames : State.reset.busy = false
    ∧ (frameA = 0x24#8 :: ([0x41#8] ++ [0x2A#8, 0x34#8, 0x31#8, 0x0D#8, 0x0A#8]) ∧ ishex false 0x34#8 = true
      ∧ ishex false 0x31#8 = true ∧ (xorfold [0x41#8]).toNat = 16 * hexval 0x34#8 + hexval 0x31#8)
    ∧ ((List.replicate 79 0x30#8).length = 79 ∧ ishex false 0x33#8 = true ∧ ishex false 0x30#8 = true
      ∧ (xorfold (List.replicate 79 0x30#8)).toNat = 16 * hexval 0x33#8 + hexval 0x30#8) := by decide

-- No frame: a payload of 0 bytes (V-DEC 4), of 80 bytes with the right sum (V-DEC 12), a wrong sum (V-DEC 2).
theorem witness_decode_no_frames (f : Bytes)
    (h : f = [0x24#8, 0x2A#8, 0x30#8, 0x30#8, 0x0D#8, 0x0A#8] ∨ f = frameA.set 4 0x30#8
      ∨ f = 0x24#8 :: (List.replicate 80 0x30#8 ++ [0x2A#8, 0x30#8, 0x30#8, 0x0D#8, 0x0A#8])) :
    ¬ ∃ p h l, f = 0x24#8 :: (p ++ [0x2A#8, h, l, 0x0D#8, 0x0A#8]) ∧ 1 ≤ p.length ∧ p.length ≤ 79
      ∧ ishex false h = true ∧ ishex false l = true ∧ (xorfold p).toNat = 16 * hexval h + hexval l := by
  rintro ⟨p, a, b, hf⟩
  have hd := (decodeFrame_eq_ok_iff false f p).mpr ⟨a, b, hf⟩
  have hn : ∀ q, decodeFrame false f ≠ .ok q := by
    obtain rfl | rfl | rfl := h
    · rw [show decodeFrame false [0x24#8, 0x2A#8, 0x30#8, 0x30#8, 0x0D#8, 0x0A#8] = .error .notAFrame by decide]
      simp
    · rw [show decodeFrame false (frameA.set 4 0x30#8) = .error .checksumMismatch by decide]
      simp
    · rw [show decodeFrame false (0x24#8 :: (List.replicate 80 0x30#8 ++ [0x2A#8, 0x30#8, 0x30#8, 0x0D#8, 0x0A#8]))
        = .error .notAFrame by decide]
      simp
  exact hn p hd

-- V-RU 9: "abc", then "de" and "f\nxyz": a line, with bytes left over; the second chunk completes it.
theorem witness_readUnit_line : lineOk [0x61#8, 0x62#8, 0x0A#8] = true
    ∧ (idle [] (dataAnswers [(0x62#8, []), (0x0A#8, [0x78#8])] ++ [.eos])).busy = false
    ∧ rxbufFits Params.default ([0x61#8] ++ chunkBytes [(0x62#8, []), (0x0A#8, [0x78#8])]).length = true
    ∧ [0x61#8] ++ chunkBytes [(0x62#8, []), (0x0A#8, [0x78#8])]
      = (RxUnit.line [0x61#8, 0x62#8, 0x0A#8]).bytes ++ [0x78#8] := by decide
-- V-RU 1 and 4: control bytes, one already buffered, one to be read.
theorem witness_readUnit_ctl : [0x11#8] ++ chunkBytes [] = RxUnit.ready.bytes ++ []
    ∧ ([] : Bytes) ++ chunkBytes [(0x13#8, [0x11#8])] = RxUnit.done.bytes ++ [0x11#8] := by decide

-- V-RU 17 and 18: part of a line buffered, then Timeout or Eos.
theorem witness_readUnit_fails : (idle [] (dataAnswers [(0x62#8, [])] ++ .timeout :: [])).busy = false
    ∧ rxbufFits Params.default ([0x61#8] ++ chunkBytes [(0x62#8, [])]).length = true
    ∧ cutUnit ([0x61#8] ++ chunkBytes [(0x62#8, [])]) = none
    ∧ (idle [] (dataAnswers [] ++ .eos :: [.timeout])).rx = [.eos, .timeout] ∧ cutUnit ([] ++ chunkBytes []) = none := by
  decide

-- The block is idle, or reads in READ or in EXEC, and the transport has delivered a byte and no more.
theorem witness_readUnit_waits : (idle [] (dataAnswers [(0x61#8, [])])).busy = false
    ∧ cutUnit ([] ++ chunkBytes [(0x61#8, [])]) = none ∧ ({ at' .read with rx := [.data 0x61#8 []] }).readsUnit = true
    ∧ ({ at' .exec with sop := .readUnit, rx := dataAnswers [(0x61#8, [])] }).readsUnit = true := by decide

-- A buffer of 85: 84 bytes, a chunk of one byte that fits, then one byte more; without that chunk the byte fits.
theorem witness_overfull : ({ Params.default with rxbufDepth := some 85 }).wf = true
    ∧ (List.replicate 84 0x61#8 ++ chunkBytes [(0x61#8, [])]).length ≤ 85
    ∧ cutUnit (List.replicate 84 0x61#8 ++ chunkBytes [(0x61#8, [])]) = none
    ∧ 85 < (List.replicate 84 0x61#8 ++ chunkBytes [(0x61#8, [])]).length + (([] : Bytes).length + 1)
    ∧ ¬ 85 < (List.replicate 84 0x61#8 ++ chunkBytes []).length + (([] : Bytes).length + 1)
    ∧ State.reset.busy = false ∧ (at' .waitReady).readsUnit = true ∧ (at' .read).readsUnit = true := by decide

-- All seven bytes accepted, six accepted; the empty operand with 0; no answer yet.
theorem witness_writeUnit : (idle [7] []).busy = false ∧ (idle [7] []).tx = 7 :: [] ∧ frameA.length ≤ 7
    ∧ (idle [6] []).tx = 6 :: [] ∧ 6 < frameA.length ∧ ([] : Bytes).length ≤ 0 ∧ (idle [] []).tx = [] := by decide

-- The four cases of CTL_READY, CTL_DONE and LINE.
theorem witness_units : (at' .waitReady).seq = .waitReady ∧ (at' .read).seq = .read
    ∧ ({ at' .exec with sop := .readUnit }).seq = .exec ∧ ({ at' .exec with sop := .readUnit }).sop = .readUnit
    ∧ (at' .tx).seq ≠ .waitReady ∧ (at' .tx).seq ≠ .read ∧ ¬ ((at' .tx).seq = .exec ∧ (at' .tx).sop = .readUnit)
    ∧ ¬ ((at' .exec).seq = .exec ∧ (at' .exec).sop = .readUnit) := by decide

theorem witness_frame : (List.replicate 79 0x41#8).length ≤ 79 ∧ ({ at' .dec with gen := true }).seq = .dec
    ∧ ({ at' .dec with gen := true }).gen = true ∧ (at' .dec).gen = false ∧ (at' .read).seq ≠ .dec := by decide

-- ENC with a valid and an unencodable command; TX accepted in full, one byte short, and not answered.
theorem witness_command_rows : validPayload [0x51#8] ∧ ¬ validPayload [0x13#8] ∧ (at' .enc).busy = true
    ∧ (at' .enc).seq = .enc ∧ (at' .tx).seq = .tx ∧ frameA.length ≤ 7 ∧ 6 < frameA.length ∧ (at' .tx).tx = [] := by
  refine ⟨⟨by decide, by decide, by decide⟩, fun h => ?_, by decide, by decide, by decide, by decide, by decide, by decide⟩
  exact absurd (h.2.2 0x13#8 (by decide)) (by decide)

theorem witness_failed_read : (at' .read).busy = true ∧ (at' .read).seq = .read ∧ (at' .waitReady).seq = .waitReady
    ∧ ({ at' .read with rx := dataAnswers [(0x24#8, [])] ++ [ReadAnswer.timeout] }).rx
      = dataAnswers [(0x24#8, [])] ++ [ReadAnswer.timeout]
    ∧ rxbufFits Params.default ([] ++ chunkBytes [(0x24#8, [])]).length = true
    ∧ cutUnit ([] ++ chunkBytes [(0x24#8, [])]) = none
    ∧ ({ at' .exec with sop := .readUnit }).seq = .exec ∧ ({ at' .exec with sop := .readUnit }).sop = .readUnit := by decide

-- DEC on a frame and on a line that is none; MATCH accepted and rejected.
theorem witness_decode_rows : ({ at' .dec with line := frameA }).seq = .dec ∧ decodeFrame false frameA = .ok [0x41#8]
    ∧ decodeFrame false [0x0A#8] = .error .notAFrame ∧ (at' .matchRec).seq = .matchRec
    ∧ verdictOf onlyA [0x41#8] = .hit ⟨7⟩ ∧ verdictOf onlyA [0x42#8] = .miss := by decide

theorem witness_yield : (at' .yield).busy = true ∧ (at' .yield).seq = .yield ∧ (at' .yield).shape = .zero
    ∧ ({ at' .yield with shape := .one }).shape = .one ∧ (at' .yield).itemcnt = 0
    ∧ ({ at' .yield with shape := .one, itemcnt := 1 }).itemcnt = 1 ∧ ({ at' .yield with shape := .many }).shape = .many := by
  decide

theorem witness_error_exit : (at' .flush).busy = true ∧ (at' .flush).seq = .flush
    ∧ ({ at' .flush with raised := ⟨.protocolError, [0x11#8]⟩ }).raised.kind ≠ .ok := by decide

-- An operation word next in line; READY found in RXBUF; a frame kept in DEC.
theorem witness_step : State.reset.busy = false ∧ decodeCommand ⟨0x83#8, [], noMatcher⟩ = .ok .readUnit
    ∧ (at' .waitReady).readsUnit = true
    ∧ fetchUnit [] { at' .waitReady with rxbuf := [0x11#8] } = .found .ready { at' .waitReady with rxbuf := [0x11#8] }
    ∧ decodeFrame ({ at' .dec with line := frameA }).params.hexLowerOk ({ at' .dec with line := frameA }).line
      = .ok [0x41#8] := by decide

-- A word of each port: 0x83, 0x11 and the seven bytes of "$A*41\r\n".
theorem witness_fetch_word : decodeTableWord 8 0x83 = some .readUnit ∧ decodeTableWord 8 0x11 = some .ctlReady
    ∧ decodeTableWord 56 0x0A0D31342A4124 = some (.frame [0x41#8]) := by decide

-- The reserved words of each kind, at the ends of the ranges; an operation with and without operand bytes.
theorem witness_reserved_words : (0x00#8 : Byte).toNat % 16 = 0 ∧ (0x0B#8 : Byte).toNat % 16 = 0xB
    ∧ (0x0F#8 : Byte).toNat % 16 = 0xF ∧ (0x21#8 : Byte).toNat / 32 % 4 ≠ 0
    ∧ ((0x11#8 : Byte).toNat / 16 % 2 = 1 ∧ (0x11#8 : Byte).toNat % 16 ≠ 9 ∧ (0x11#8 : Byte).toNat % 16 ≠ 0xA)
    ∧ ((0x03#8 : Byte).toNat % 16 = 3 ∧ (0x03#8 : Byte).toNat / 128 = 0)
    ∧ ((0x19#8 : Byte).toNat % 16 = 9 ∧ (0x19#8 : Byte).toNat / 32 % 4 = 0) ∧ (0x83#8 : Byte).toNat / 128 = 1 := by decide

theorem witness_busy : (at' .read).busy = true ∧ Instr.readUnit.port = .host := by decide

theorem witness_host_registers : (0#3 : BitVec 3) ≠ 7#3 ∧ (1#3 : BitVec 3) ≠ 0#3 ∧ State.reset.busy = false
    ∧ (at' .tx).busy = true ∧ decodeOp ((0x0083#16 : HostWord).extractLsb' 0 8) [] = .ok .readUnit
    ∧ decodeOp ((0x0001#16 : HostWord).extractLsb' 0 8) [] = .error .operandMissing := by decide

-- Words of each kind written to an idle block: READ_UNIT, XCHG_ONE with a matcher, a reserved word.
theorem witness_written_word : State.reset.busy = false
    ∧ decodeOp ((0x0083#16 : HostWord).extractLsb' 0 8) [] = .ok .readUnit
    ∧ decodeOp ((0x0019#16 : HostWord).extractLsb' 0 8) [0x51#8] = .ok (.xchgOne true [0x51#8])
    ∧ decodeOp ((0x0018#16 : HostWord).extractLsb' 0 8) [0x51#8] = .error .genNotAllowed
    ∧ Reject.genNotAllowed.isReserved = true := by decide
theorem witness_written_word_forms : isStandalone .readUnit .readUnit [] ∧ isStandalone (.encode [0x41#8]) .encode [0x41#8]
    ∧ isExchange (.xchgOne true [0x51#8]) .one true [0x51#8] :=
  ⟨.inr (.inr (.inl ⟨rfl, rfl, rfl⟩)), .inl ⟨rfl, rfl⟩, .inr (.inl ⟨rfl, rfl⟩)⟩

-- R36, R209: STATUS after the first write is BUSY with SEQ EXEC; the second write, of ENCODE, is ignored.
theorem test_write_starts : csrRead (csrWrite State.reset 0#3 0x0083#16 [] noMatcher) 1#3 = 0x0901#16
    ∧ csrWrite (csrWrite State.reset 0#3 0x0083#16 [] noMatcher) 0#3 0x0001#16 [0x41#8] noMatcher
      = csrWrite State.reset 0#3 0x0083#16 [] noMatcher := by decide

-- EXEC with each operation: a valid and an invalid payload, a frame and none, a write answered in full, short, and not.
theorem witness_exec_rows : (at' .exec).busy = true ∧ (at' .exec).seq = .exec ∧ (at' .exec).sop = .encode
    ∧ ({ at' .exec with sop := .decode }).sop = .decode ∧ decodeFrame false frameA = .ok [0x41#8]
    ∧ decodeFrame false [] = .error .notAFrame ∧ ({ at' .exec with sop := .writeUnit, tx := [1] }).tx = 1 :: []
    ∧ ([0x41#8] : Bytes).length ≤ 1 ∧ 1 < ([0x41#8, 0x42#8] : Bytes).length ∧ (at' .exec).tx = [] := by decide

theorem witness_completion : Kind.protocolError ≠ .ok ∧ (at' .read).host = [] := by decide

theorem witness_idle : State.reset.busy = false ∧ State.reset.host = [] := by decide

-- Instructions at the ends of what the encodings carry.
theorem witness_wf : (Instr.frame (List.replicate 79 0xFF#8)).wf = true ∧ (Instr.frame [0x00#8]).wf = true
    ∧ (Instr.line [0x0A#8]).wf = true ∧ (Instr.encode []).wf = true := by decide

-- One decoding at each port.
theorem witness_decoded : decode .host false [0x82#8] = .ok (.decode [], [])
    ∧ (0x82#8 : Byte).toNat / 128 = 1 ∧ decode .host false [0x01#8, 0x41#8] = .ok (.encode [0x41#8], [])
    ∧ ¬ (0x01#8 : Byte).toNat / 128 = 1
    ∧ decode .frame true [0x24#8, 0x7E#8, 0x2A#8, 0x37#8, 0x65#8, 0x0D#8, 0x0A#8] = .ok (.frame [0x7E#8], [])
    ∧ decode .unit true [0x0A#8, 0x61#8] = .ok (.line [0x0A#8], [0x61#8])
    ∧ decode .frame false frameA = .ok (.frame [0x41#8], []) := by decide

theorem witness_first_byte : (0x12#8 : Byte) ≠ 0x11#8 ∧ (0x12#8 : Byte) ≠ 0x13#8 ∧ (0x12#8 : Byte) ≠ 0x0A#8
    ∧ 0x0A#8 ∉ ([0x11#8] : Bytes) ∧ 0x0A#8 ∉ ([] : Bytes) := by decide

theorem witness_checksum : ([0x41#8, 0x42#8] : Bytes).Perm [0x42#8, 0x41#8] ∧ (0x43#8 : Byte) ≠ 0x41#8
    ∧ ∀ b ∈ ([0x00#8, 0x7F#8] : Bytes), b < 0x80#8 := by
  exact ⟨List.Perm.swap _ _ _, by decide, by decide⟩

theorem witness_round_trip : encodePayload [0x41#8] = some frameA ∧ decodeFrame false frameA = .ok [0x41#8]
    ∧ ∀ b ∈ ([0x41#8] : Bytes), printable b = true := by decide

-- V-DEC 20: "$~*7e\r\n" with HEX_LOWER_OK, index 4, bit 5, in both directions of the case.
theorem witness_bit_flip : decodeFrame true [0x24#8, 0x7E#8, 0x2A#8, 0x37#8, 0x65#8, 0x0D#8, 0x0A#8] = .ok [0x7E#8]
    ∧ decodeFrame true [0x24#8, 0x7E#8, 0x2A#8, 0x37#8, 0x45#8, 0x0D#8, 0x0A#8] = .ok [0x7E#8]
    ∧ (0x45#8 : Byte) ^^^ (1#8 <<< 5) = 0x65#8 ∧ 10 ≤ hexval 0x45#8 ∧ 10 ≤ hexval 0x65#8 := by decide

-- V-DEC 38.
theorem witness_permuted : ([0x41#8, 0x42#8] : Bytes).Perm [0x42#8, 0x41#8]
    ∧ decodeFrame false (0x24#8 :: ([0x41#8, 0x42#8] ++ [0x2A#8, 0x30#8, 0x33#8, 0x0D#8, 0x0A#8]))
      = .ok [0x41#8, 0x42#8] := by
  exact ⟨List.Perm.swap _ _ _, by decide⟩

-- READ_UNIT returning a control unit, a line unit, and failing.
theorem witness_returned_unit :
    got (fun t => (t.busy, t.kind, t.ukind)) (exec .readUnit { idle [] [] with rxbuf := [0x11#8] }) = some (false, .ok, false)
    ∧ got (fun t => (t.busy, t.kind, t.ukind)) (exec .readUnit { idle [] [] with rxbuf := [0x0A#8] })
      = some (false, .ok, true)
    ∧ got (fun t => (t.busy, t.kind)) (exec .readUnit (idle [] [.eos])) = some (false, .readError)
    ∧ got (fun t => (t.busy, t.res)) (exec .readUnit { idle [] [] with rxbuf := 0x61#8 :: ([0x11#8] ++ 0x0A#8 :: [0x13#8]) })
      = some (false, [0x61#8, 0x11#8, 0x0A#8]) ∧ 0x0A#8 ∉ ([0x11#8] : Bytes) := by decide

-- The same four bytes as one chunk and as two.
theorem witness_chunking : chunkBytes [(0x61#8, [0x0A#8, 0x13#8])] = chunkBytes [(0x61#8, []), (0x0A#8, [0x13#8])]
    ∧ cutUnit ([] ++ chunkBytes [(0x61#8, [0x0A#8, 0x13#8])]) ≠ none
    ∧ got State.res (exec .readUnit (idle [] (dataAnswers [(0x61#8, [0x0A#8, 0x13#8])] ++ [])))
      = some [0x61#8, 0x0A#8] := by decide

/-! Exchanges. -/

theorem isExchange_all : isExchange (.xchgZero [0x51#8]) .zero false [0x51#8]
    ∧ isExchange (.xchgOne true [0x51#8]) .one true [0x51#8] ∧ isExchange (.xchgMany false [0x51#8]) .many false [0x51#8] :=
  ⟨.inl ⟨rfl, rfl, rfl⟩, .inr (.inl ⟨rfl, rfl⟩), .inr (.inr ⟨rfl, rfl⟩)⟩

theorem valid_Q : validPayload [0x51#8] := ⟨by decide, by decide, by decide⟩

-- V-XC 19 and 22: the empty command and a command with a control byte.
theorem witness_unencodable : isExchange (.xchgMany false []) .many false [] ∧ ¬ validPayload []
    ∧ isExchange (.xchgMany false [0x61#8, 0x13#8]) .many false [0x61#8, 0x13#8] ∧ ¬ validPayload [0x61#8, 0x13#8] := by
  refine ⟨.inr (.inr ⟨rfl, rfl⟩), fun h => absurd h.1 (by decide), .inr (.inr ⟨rfl, rfl⟩), fun h => ?_⟩
  exact absurd (h.2.2 0x13#8 (by decide)) (by decide)

-- The frame of "Q" has seven bytes: six accepted is short, seven is not.
theorem witness_short_write : isExchange (.xchgOne true [0x51#8]) .one true [0x51#8] ∧ validPayload [0x51#8]
    ∧ (idle [6] []).tx = 6 :: [] ∧ 6 < ([0x51#8] : Bytes).length + 6 ∧ ¬ 7 < ([0x51#8] : Bytes).length + 6 :=
  ⟨isExchange_all.2.1, valid_Q, by decide, by decide, by decide⟩

/-- The line "$A*41\r\n" yields an item without and with a matcher. -/
theorem lineYields_A : lineYields false false noMatcher frameA ⟨[0x41#8], none⟩
    ∧ lineYields false true onlyA frameA ⟨[0x41#8], some ⟨7⟩⟩ :=
  ⟨⟨by decide, by decide, .inl ⟨rfl, rfl⟩⟩, ⟨by decide, by decide, .inr ⟨rfl, ⟨7⟩, by decide, rfl⟩⟩⟩

-- XCHG_ZERO with no item, XCHG_ONE with a matcher and one item, XCHG_MANY with two; a byte after DONE, two chunks.
theorem witness_returns_items :
    isExchange (.xchgZero [0x51#8]) .zero false [0x51#8] ∧ shapeAllows .zero ([] : List Item).length
    ∧ isExchange (.xchgOne true [0x51#8]) .one true [0x51#8] ∧ shapeAllows .one [(⟨[0x41#8], some ⟨7⟩⟩ : Item)].length
    ∧ isExchange (.xchgMany false [0x51#8]) .many false [0x51#8]
    ∧ shapeAllows .many [(⟨[0x41#8], none⟩ : Item), ⟨[0x41#8], none⟩].length
    ∧ validPayload [0x51#8] ∧ ([0x51#8] : Bytes).length + 6 ≤ 7
    ∧ presentedMatcher { State.reset with host := [⟨0x19#8, [0x51#8], onlyA⟩] } = onlyA
    ∧ List.Forall₂ (lineYields false true onlyA) [frameA] [⟨[0x41#8], some ⟨7⟩⟩]
    ∧ List.Forall₂ (lineYields false false noMatcher) [frameA, frameA] [⟨[0x41#8], none⟩, ⟨[0x41#8], none⟩]
    ∧ [] ++ chunkBytes [(0x11#8, [0x24#8]), (0x41#8, [0x2A#8, 0x34#8, 0x31#8, 0x0D#8, 0x0A#8, 0x13#8, 0x0A#8])]
      = 0x11#8 :: ([frameA].flatten ++ 0x13#8 :: [0x0A#8])
    ∧ [] ++ chunkBytes [(0x11#8, [0x13#8])] = 0x11#8 :: (([] : List Bytes).flatten ++ 0x13#8 :: []) :=
  ⟨isExchange_all.1, rfl, isExchange_all.2.1, Nat.le_refl 1, isExchange_all.2.2, trivial, valid_Q, by decide, by decide,
    .cons lineYields_A.2 .nil, .cons lineYields_A.1 (.cons lineYields_A.1 .nil), by decide, by decide⟩

-- V-XC: the first unit is DONE, is a line, never comes.
theorem witness_first_unit : isExchange (.xchgMany false [0x51#8]) .many false [0x51#8] ∧ validPayload [0x51#8]
    ∧ departsAtReady ([] ++ chunkBytes [(0x13#8, [])]) [] .protocolError [0x13#8]
    ∧ departsAtReady ([] ++ chunkBytes [(0x0A#8, [0x11#8])]) [] .protocolError [0x0A#8]
    ∧ departsAtReady ([0x24#8] ++ chunkBytes []) [.timeout] .timeoutError []
    ∧ departsAtReady ([] ++ chunkBytes []) [.eos] .readError [] :=
  ⟨isExchange_all.2.2, valid_Q, .inl ⟨[], rfl, rfl, rfl⟩,
    .inr (.inl ⟨[0x0A#8], [0x11#8], rfl, by decide, rfl, rfl⟩),
    .inr (.inr ⟨⟨by decide, [], .inl ⟨rfl, rfl⟩⟩, rfl⟩), .inr (.inr ⟨⟨by decide, [], .inr ⟨rfl, rfl⟩⟩, rfl⟩)⟩

-- The five departures in the loop: a second READY, a line that is no frame, a rejected payload, an item too many (the
-- first of XCHG_ZERO, the second of XCHG_ONE), a read that fails.
theorem witness_departures :
    departsInLoop false false noMatcher .many 1 [0x11#8, 0x13#8] [] .protocolError [0x11#8]
    ∧ departsInLoop false false noMatcher .many 0 [0x0A#8] [] .decodeError [0x0A#8]
    ∧ departsInLoop false true onlyA .many 1 (frameB ++ [0x13#8]) [] .protocolError frameB
    ∧ departsInLoop false false noMatcher .zero 0 frameA [] .protocolError frameA
    ∧ departsInLoop false false noMatcher .one 1 frameA [] .protocolError frameA
    ∧ departsInLoop false false noMatcher .one 1 [0x24#8] [.timeout] .timeoutError []
    ∧ 0x11#8 :: ([frameA].flatten ++ frameA) = [] ++ chunkBytes [(0x11#8, frameA ++ frameA)] :=
  ⟨.inl ⟨[0x13#8], rfl, rfl, rfl⟩,
    .inr (.inl ⟨[0x0A#8], [], rfl, by decide, by
      rw [show decodeFrame false [0x0A#8] = .error .notAFrame by decide]; simp, rfl, rfl⟩),
    .inr (.inr (.inl ⟨frameB, [0x13#8], [0x42#8], rfl, by decide, by decide, rfl, by decide, rfl, rfl⟩)),
    .inr (.inr (.inr (.inl ⟨frameA, [], ⟨[0x41#8], none⟩, by simp, lineYields_A.1, by simp [shapeAllows], rfl, rfl⟩))),
    .inr (.inr (.inr (.inl ⟨frameA, [], ⟨[0x41#8], none⟩, by simp, lineYields_A.1, by simp [shapeAllows], rfl, rfl⟩))),
    .inr (.inr (.inr (.inr ⟨⟨by decide, [], .inl ⟨rfl, rfl⟩⟩, rfl⟩))), by decide⟩

-- An exchange that completes, one in each way of R166, and one that blocks.
theorem witness_exchange_runs :
    got (fun t => (t.busy, t.kind)) (exec (.xchgOne false [0x51#8]) (idle [7] (readyThen [0x13#8]))) = some (false, .ok)
    ∧ got (fun t => (t.busy, t.kind)) (exec (.xchgMany false []) (idle [] [])) = some (false, .encodeError)
    ∧ got (fun t => (t.busy, t.kind)) (exec (.xchgZero [0x51#8]) (idle [6] [])) = some (false, .writeError)
    ∧ got (fun t => (t.busy, t.kind)) (exec (.xchgZero [0x51#8]) (idle [7] [.timeout])) = some (false, .timeoutError)
    ∧ got (fun t => (t.busy, waits t)) (exec (.xchgZero [0x51#8]) (idle [7] [])) = some (true, true) := by decide

-- Each operation completes, in each kind that the table of R191 gives it.
theorem witness_kinds :
    got (fun t => (t.busy, t.kind)) (exec (.encode [0x41#8]) (idle [] [])) = some (false, .ok)
    ∧ got (fun t => (t.busy, t.kind)) (exec (.encode []) (idle [] [])) = some (false, .encodeError)
    ∧ got (fun t => (t.busy, t.kind)) (exec (.decode frameA) (idle [] [])) = some (false, .ok)
    ∧ got (fun t => (t.busy, t.kind)) (exec (.decode []) (idle [] [])) = some (false, .decodeError)
    ∧ got (fun t => (t.busy, t.kind)) (exec .readUnit (idle [] [.timeout])) = some (false, .timeoutError)
    ∧ got (fun t => (t.busy, t.kind)) (exec (.writeUnit [0x41#8]) (idle [1] [])) = some (false, .ok)
    ∧ got (fun t => (t.busy, t.kind)) (exec (.writeUnit [0x41#8]) (idle [0] [])) = some (false, .writeError) := by decide

-- R64, R203 with FLUSH_CLEARS_RXBUF false: what was read after the departing unit (DONE; a second READY) stays in RXBUF.
theorem witness_kept_rxbuf :
    got (fun t => (t.kind, t.rxbuf)) (exec (.xchgMany false [0x51#8])
      { idle [7] [.data 0x13#8 [0x61#8]] with params := { Params.default with flushClearsRxbuf := false } })
      = some (.protocolError, [0x61#8])
    ∧ got (fun t => (t.kind, t.rxbuf)) (exec (.xchgMany false [0x51#8])
      { idle [7] (readyThen (frameA ++ [0x11#8, 0x61#8])) with params := { Params.default with flushClearsRxbuf := false } })
      = some (.protocolError, [0x61#8]) := by decide

-- Steps that end an operation accepted earlier: a WRITE_UNIT answered late, a READ_UNIT that fails after a wait.
theorem witness_resumed :
    got (fun t => (t.busy, t.kind)) (step { at' .exec with sop := .writeUnit, opd := [0x41#8], tx := [0] })
      = some (false, .writeError)
    ∧ got (fun t => (t.busy, t.kind)) (step { at' .exec with sop := .readUnit, rx := [.eos] }) = some (false, .readError)
    ∧ encodePayload ({ at' .tx with opd := [0x41#8], frm := frameA }).opd = some frameA := by decide

-- A step of a running operation, of an idle block, and one that only waits.
theorem witness_steps : (at' .enc).busy = true ∧ got State.seq (step (at' .enc)) = some .flush
    ∧ got State.seq (step (at' .waitReady)) = some .waitReady
    ∧ got State.kind (step { State.reset with host := [⟨0x00#8, [], noMatcher⟩] }) = some .illegalOp := by decide

/-- READ after one item of XCHG_ONE, with DONE in RXBUF. -/
def midXchg : State :=
  { at' .read with
    shape := .one, itemcnt := 1, items := [⟨[0x41#8], none⟩], opd := [0x51#8], rxbuf := [0x13#8]
    hist := [.read (.data 0x13#8 [])] }

-- A state with the invariant, other than reset, and the step from it.
theorem witness_invariant : midXchg.Inv ∧ got (fun t => (t.kind, t.items)) (step midXchg)
    = some (.ok, [⟨[0x41#8], none⟩]) := by
  refine ⟨?_, by decide⟩
  constructor <;> simp [midXchg, at', State.reset, State.resetWith, Params.default, itemOk, keepsLine, rxbufFits,
    cutErrtext, rxTaken, eventTaken, payloadLenOk]

end Sys2Proof.Tests
end

section
/-! PROOFS. What one row of the sequencer can do, said once: it gathers (scratch registers, answers of the transport, events),
then it decides (which state comes next, or how the operation ends). The obligations about every step follow. -/

namespace Sys2Proof.Machine

variable {s t u : State}

/-! ### Gathering -/

/-- What a row does before it decides: it may write CSUM and LEN (0 to 80), take answers of the transport into RXBUF, remove
bytes from the head of RXBUF, and record interactions; RXBUF stays within its capacity and the end of what was delivered. -/
inductive Gathers (s : State) : State → Prop where
  | intro (csum : Byte) (len : BitVec 7) (rxbuf : Bytes) (rx : List ReadAnswer) (rxNext : List (List ReadAnswer))
      (tx : List Nat) (hist : List Event)
      (lenBound : s.len.toNat ≤ 80 → len.toNat ≤ 80)
      (fits : rxbufFits s.params s.rxbuf.length = true → rxbufFits s.params rxbuf.length = true)
      (grows : s.hist <+: hist)
      (delivered : s.rxbuf <:+ rxTaken s.hist → rxbuf <:+ rxTaken hist) :
      Gathers s { s with
        csum := csum, len := len, rxbuf := rxbuf, rx := rx, rxNext := rxNext, tx := tx, hist := hist }

theorem Gathers.refl (s : State) : Gathers s s :=
  .intro _ _ _ _ _ _ _ id id (List.prefix_refl _) id

theorem Gathers.trans (h : Gathers s t) (h' : Gathers t u) : Gathers s u := by
  obtain ⟨_, _, _, _, _, _, _, len, fits, grows, delivered⟩ := h
  obtain ⟨_, _, _, _, _, _, _, len', fits', grows', delivered'⟩ := h'
  exact .intro _ _ _ _ _ _ _ (len' ∘ len) (fits' ∘ fits) (grows.trans grows') (delivered' ∘ delivered)

theorem Gathers.seq_eq (h : Gathers s u) : u.seq = s.seq := by
  cases h; rfl

/-- R22: LEN counts 0 to 80. -/
theorem lenCount_toNat_le (n : Nat) : (lenCount n).toNat ≤ 80 := by
  simp only [lenCount, BitVec.toNat_ofNat]
  omega

/-- R21, R22: the scratch registers are written. -/
theorem gathers_scratch (c : Byte) (n : Nat) (s : State) : Gathers s { s with csum := c, len := lenCount n } :=
  .intro _ _ _ _ _ _ _ (fun _ => lenCount_toNat_le n) id (List.prefix_refl _) id

theorem gathers_encodeScratch (p : Bytes) (s : State) : Gathers s (encodeScratch p s) :=
  gathers_scratch _ _ s

/-- R114: Decode writes CSUM and LEN or leaves them. -/
theorem decodeScratch_cases (f : Bytes) (s : State) :
    decodeScratch f s = s ∨ ∃ p, frameShape s.params.hexLowerOk f = some p
      ∧ decodeScratch f s = { s with len := lenCount p.length, csum := xorfold p } := by
  cases h : frameShape s.params.hexLowerOk f with
  | none => exact .inl (by simp [decodeScratch, h])
  | some p => exact .inr ⟨p, rfl, by simp [decodeScratch, h]⟩

theorem gathers_decodeScratch (f : Bytes) (s : State) : Gathers s (decodeScratch f s) := by
  obtain h | ⟨p, _, h⟩ := decodeScratch_cases f s
  · rw [h]; exact .refl s
  · rw [h]; exact gathers_scratch _ _ s

/-- R132: a unit leaves RXBUF at its head. -/
theorem gathers_dropRx (n : Nat) (s : State) : Gathers s (dropRx n s) :=
  .intro _ _ _ _ _ _ _ id (rxbufFits_mono _ _ _ (by simp)) (List.prefix_refl _) ((List.drop_suffix n s.rxbuf).trans ·)

/-- R35: an interaction that brings nothing in, with the transport's scripts as they are after it. -/
theorem gathers_event (e : Event) (he : rxTaken [e] = []) (rx : List ReadAnswer) (rxNext : List (List ReadAnswer))
    (tx : List Nat) (s : State) : Gathers s { s with rx := rx, rxNext := rxNext, tx := tx, hist := s.hist ++ [e] } :=
  .intro _ _ _ _ _ _ _ id id (List.prefix_append _ _) (by simp [he])

/-- R131: the chunks of a read enter RXBUF and are recorded. -/
theorem gathers_afterFills (s : State) (cs : List (Byte × Bytes)) (rest : List ReadAnswer)
    (hfit : rxbufFits s.params s.rxbuf.length = true → rxbufFits s.params (s.rxbuf ++ chunkBytes cs).length = true) :
    Gathers s (afterFills s cs rest) :=
  .intro _ _ _ _ _ _ _ id hfit (List.prefix_append _ _) (by
    rintro ⟨before, h⟩
    exact ⟨before, by simp [← h]⟩)

/-- R203: the flush of the error exit, and RXBUF emptied when the build says so. -/
theorem gathers_flush (s : State) :
    Gathers s { transportFlush s with rxbuf := if s.params.flushClearsRxbuf then [] else s.rxbuf } := by
  refine .intro _ _ _ _ _ _ _ id (rxbufFits_mono _ _ _ ?_) (List.prefix_append _ _) ?_
  · split <;> simp
  · intro h
    split
    · exact List.nil_suffix
    · simpa using h

/-! ### Deciding -/

/-- What a row of R165 or R30 decides in the state it has gathered: it waits, raises, completes, or goes to the next state
of SEQ with what that state needs. -/
inductive Decides (u : State) : State → Prop where
  | waits : Decides u u
  | raises (k : Kind) (text : Bytes) (hseq : u.seq ≠ .idle) (hk : k ≠ .ok ∧ k ≠ .illegalOp) : Decides u (raise k text u)
  | fails (k : Kind) (text : Bytes) (hseq : u.seq = .exec) (hk : k ≠ .ok) : Decides u (complete k text u)
  | succeeds (res : Bytes) (ukind present : Bool) (hseq : u.seq = .exec ∨ u.seq = .read) :
      Decides u (complete .ok [] { u with res := res, ukind := ukind, resultPresent := present })
  | exits (hseq : u.seq = .flush) : Decides u (complete u.raised.kind u.raised.text { u with items := [] })
  | encodes (f : Bytes) (hseq : u.seq = .enc) (hf : encodePayload u.opd = some f) :
      Decides u { u with frm := f, seq := .tx }
  | sends (hseq : u.seq = .tx) : Decides u { u with seq := .waitReady }
  | starts (hseq : u.seq = .waitReady) : Decides u { u with seq := .read }
  | keeps (l : Bytes) (hseq : u.seq = .read) (hl : lineOk l = true) : Decides u { u with line := l, seq := .dec }
  | asks (p : Bytes) (hseq : u.seq = .dec) (hd : decodeFrame u.params.hexLowerOk u.line = .ok p) (hg : u.gen = true) :
      Decides u { u with pay := p, seq := .matchRec }
  | passes (p : Bytes) (hseq : u.seq = .dec) (hd : decodeFrame u.params.hexLowerOk u.line = .ok p) (hg : u.gen = false) :
      Decides u { u with pay := p, item := ⟨p, none⟩, seq := .yield }
  | hits (r : Rec) (hseq : u.seq = .matchRec) : Decides u { u with item := ⟨u.pay, some r⟩, seq := .yield }
  | acceptsOne (hseq : u.seq = .yield) (hsh : u.shape = .one) (hn : u.itemcnt ≠ 1) :
      Decides u { u with items := [u.item], itemcnt := 1, seq := .read }
  | acceptsNext (hseq : u.seq = .yield) (hsh : u.shape = .many) :
      Decides u { u with items := u.items ++ [u.item], itemcnt := u.itemcnt + 1, seq := .read }

/-- One row of the sequencer: it gathers, then it decides. -/
def RowStep (s t : State) : Prop :=
  ∃ u, Gathers s u ∧ Decides u t

/-! ### The rows -/

theorem rowStep_encRow (hs : s.seq = .enc) : RowStep s (encRow s) := by
  refine ⟨_, gathers_encodeScratch s.opd s, ?_⟩
  cases he : encodePayload s.opd with
  | none =>
    simp only [encRow, he]
    exact .raises _ _ (by simp [encodeScratch, hs]) (by decide)
  | some f =>
    simp only [encRow, he]
    exact .encodes f hs he

theorem rowStep_txRow (hs : s.seq = .tx) : RowStep s (txRow s) := by
  obtain ⟨_, hw⟩ | ⟨k, ks, _, hw⟩ := transportWrite_cases s.frm s
  · exact ⟨s, .refl s, by simpa [txRow, hw] using Decides.waits⟩
  · refine ⟨_, gathers_event (.write s.frm (min k s.frm.length)) rfl s.rx s.rxNext ks s, ?_⟩
    simp only [txRow, hw]
    split
    · exact .sends hs
    · exact .raises _ _ (by simp [hs]) (by decide)

theorem rowStep_decRow (hs : s.seq = .dec) (h : decRow s = .next t) : RowStep s t := by
  cases hd : decodeFrame s.params.hexLowerOk s.line with
  | error e =>
    simp only [decRow, hd, Host.Outcome.next.injEq] at h
    subst h
    have hg := gathers_decodeScratch s.line s
    exact ⟨_, hg, .raises _ _ (by simp [hg.seq_eq, hs]) (by decide)⟩
  | ok p =>
    refine ⟨_, gathers_scratch (xorfold p) p.length s, ?_⟩
    simp only [decRow, hd, execFrame, hs] at h
    split at h
    · rename_i hgen
      cases h
      exact .asks p hs hd hgen
    · rename_i hgen
      cases h
      exact .passes p hs hd (by simpa using hgen)

theorem rowStep_matchRow (hs : s.seq = .matchRec) : RowStep s (matchRow s) := by
  refine ⟨_, gathers_event (.matched s.pay (verdictOf s.gsel s.pay)) rfl s.rx s.rxNext s.tx s, ?_⟩
  cases hv : verdictOf s.gsel s.pay with
  | hit r => simpa [matchRow, askMatcher, hv, record] using Decides.hits r (u := record _ s) hs
  | miss => simpa [matchRow, askMatcher, hv, record] using Decides.raises _ _ (u := record _ s) (by simp [hs]) (by decide)

theorem rowStep_yieldRow (hs : s.seq = .yield) : RowStep s (yieldRow s) := by
  refine ⟨s, .refl s, ?_⟩
  have hraise : Decides s (raise .protocolError s.line s) := .raises _ _ (by simp [hs]) (by decide)
  cases hsh : s.shape with
  | zero => simpa [yieldRow, hsh] using hraise
  | one =>
    by_cases hn : s.itemcnt = 1
    · simpa [yieldRow, hsh, hn] using hraise
    · simpa [yieldRow, hsh, hn] using Decides.acceptsOne hs hsh hn
  | many => simpa [yieldRow, hsh] using Decides.acceptsNext hs hsh

theorem rowStep_errorExit (hs : s.seq = .flush) : RowStep s (errorExit s.raised s) :=
  ⟨_, gathers_flush s, .exits hs⟩

theorem rowStep_runEncode (hs : s.seq = .exec) : RowStep s (runEncode s) := by
  refine ⟨_, gathers_encodeScratch s.opd s, ?_⟩
  cases he : encodePayload s.opd with
  | none =>
    simp only [runEncode, he]
    exact .fails _ _ hs (by decide)
  | some f =>
    simp only [runEncode, he]
    exact .succeeds f false true (.inl hs)

theorem rowStep_runDecode (hs : s.seq = .exec) : RowStep s (runDecode s) := by
  have hg := gathers_decodeScratch s.opd s
  refine ⟨_, hg, ?_⟩
  cases hd : decodeFrame s.params.hexLowerOk s.opd with
  | error e =>
    simp only [runDecode, hd]
    exact .fails _ _ (hg.seq_eq.trans hs) (by decide)
  | ok p =>
    simp only [runDecode, hd]
    exact .succeeds p false true (.inl (hg.seq_eq.trans hs))

theorem rowStep_writeRow (hs : s.seq = .exec) : RowStep s (writeRow s) := by
  obtain ⟨_, hw⟩ | ⟨k, ks, _, hw⟩ := transportWrite_cases s.opd s
  · exact ⟨s, .refl s, by simpa [writeRow, hw] using Decides.waits⟩
  · refine ⟨_, gathers_event (.write s.opd (min k s.opd.length)) rfl s.rx s.rxNext ks s, ?_⟩
    simp only [writeRow, hw]
    split
    · exact .succeeds _ _ _ (.inl hs)
    · exact .fails _ _ hs (by decide)

/-- R132, R134: what one ReadUnit gathers, and how it ends: the read is still to be answered, it failed, or a unit stands
whole at the head of RXBUF. -/
theorem readRow_gathers (h : readRow s = .next t) : ∃ u, Gathers s u ∧
    (t = u ∨ (∃ k, (k = .timeoutError ∨ k = .readError) ∧ t = readFailed k u)
      ∨ ∃ unit left, cutUnit u.rxbuf = some (unit, left) ∧ unitMeaning unit u = .next t) := by
  obtain ⟨cs, rest, _, hfit, ⟨unit, left, hc, hf⟩ | ⟨a, k, rest', _, _, hk, hf⟩ | ⟨_, _, hf⟩ | ⟨_, _, _, _, _, _, hf⟩⟩ :=
    fetchUnit_cases s.rx s
  · simp only [readRow, hf] at h
    exact ⟨_, gathers_afterFills s cs rest hfit, .inr (.inr ⟨unit, left, hc, h⟩)⟩
  · simp only [readRow, hf, Host.Outcome.next.injEq] at h
    have hfail : rxTaken [.read a] = [] ∧ (k = .timeoutError ∨ k = .readError) := by
      obtain ⟨rfl, rfl⟩ | ⟨rfl, rfl⟩ := hk <;> simp
    exact ⟨_, (gathers_afterFills s cs rest' hfit).trans (gathers_event (.read a) hfail.1 _ _ _ _),
      .inr (.inl ⟨k, hfail.2, h.symm⟩)⟩
  · simp only [readRow, hf, Host.Outcome.next.injEq] at h
    exact ⟨_, gathers_afterFills s cs [] hfit, .inl h.symm⟩
  · simp [readRow, hf] at h

/-- R132: in EXEC a unit is the result of READ_UNIT. -/
theorem unitMeaning_exec {unit : RxUnit} (hs : s.seq = .exec) (h : unitMeaning unit s = .next t) :
    t = s ∨ t = deliver unit.bytes unit.isLine (dropRx unit.bytes.length s) := by
  cases unit <;>
    (simp only [unitMeaning, execCtlReady, execCtlDone, execLine, hs] at h
     split at h <;> simp_all [RxUnit.bytes, RxUnit.isLine])

/-- R154 to R156: in WAIT_READY and READ a unit either moves the exchange on or is a ProtocolError with the unit as text. -/
theorem unitMeaning_exchange {unit : RxUnit} (hs : s.seq = .waitReady ∨ s.seq = .read) (h : unitMeaning unit s = .next t) :
    let v := dropRx unit.bytes.length s
    t = raise .protocolError unit.bytes v
      ∨ (s.seq = .waitReady ∧ t = { v with seq := .read })
      ∨ (s.seq = .read ∧ t = complete .ok [] { v with resultPresent := exchangeResultPresent s })
      ∨ ∃ l, unit = .line l ∧ s.seq = .read ∧ t = { v with line := l, seq := .dec } := by
  obtain hs | hs := hs <;> cases unit <;>
    simp only [unitMeaning, execCtlReady, execCtlDone, execLine, hs, Host.Outcome.next.injEq] at h <;> subst h
  · exact .inr (.inl ⟨hs, rfl⟩)
  · exact .inl rfl
  · exact .inl rfl
  · exact .inl rfl
  · exact .inr (.inr (.inl ⟨hs, rfl⟩))
  · exact .inr (.inr (.inr ⟨_, rfl, hs, rfl⟩))

/-- R132, R154 to R156: the unit at the head of RXBUF, in a state that reads one. -/
theorem rowStep_unitMeaning {unit : RxUnit} {left : Bytes} (hs : s.seq = .exec ∨ s.seq = .waitReady ∨ s.seq = .read)
    (hc : cutUnit s.rxbuf = some (unit, left)) (h : unitMeaning unit s = .next t) : RowStep s t := by
  have hline := ((cutUnit_eq_some_iff _ _ _).mp hc).2
  have hdrop := gathers_dropRx unit.bytes.length s
  obtain hs | hs := hs
  · obtain rfl | rfl := unitMeaning_exec hs h
    · exact ⟨_, .refl _, .waits⟩
    · exact ⟨_, hdrop, .succeeds _ _ _ (.inl hs)⟩
  · obtain rfl | ⟨hq, rfl⟩ | ⟨hq, rfl⟩ | ⟨l, hl, hq, rfl⟩ := unitMeaning_exchange hs h
    · refine ⟨_, hdrop, .raises _ _ ?_ (by decide)⟩
      obtain hs | hs := hs <;> simp [hs]
    · exact ⟨_, hdrop, .starts hq⟩
    · exact ⟨_, hdrop, .succeeds _ _ _ (.inr hq)⟩
    · exact ⟨_, hdrop, .keeps l hq (hline l hl)⟩

theorem decides_readFailed {k : Kind} (hs : u.seq = .exec ∨ u.seq = .waitReady ∨ u.seq = .read)
    (hk : k = .timeoutError ∨ k = .readError) : Decides u (readFailed k u) := by
  have hk : k ≠ .ok ∧ k ≠ .illegalOp := by obtain rfl | rfl := hk <;> decide
  obtain hs | hs | hs := hs <;> simp only [readFailed, hs]
  · exact .fails _ _ hs hk.1
  · exact .raises _ _ (by simp [hs]) hk
  · exact .raises _ _ (by simp [hs]) hk

theorem rowStep_readRow (hs : s.seq = .exec ∨ s.seq = .waitReady ∨ s.seq = .read) (h : readRow s = .next t) :
    RowStep s t := by
  obtain ⟨u, hg, hu⟩ := readRow_gathers h
  rw [← hg.seq_eq] at hs
  obtain rfl | ⟨k, hk, rfl⟩ | ⟨unit, left, hc, hm⟩ := hu
  · exact ⟨_, hg, .waits⟩
  · exact ⟨_, hg, decides_readFailed hs hk⟩
  · obtain ⟨v, hv, hd⟩ := rowStep_unitMeaning hs hc hm
    exact ⟨v, hg.trans hv, hd⟩

theorem rowStep_execRow (hs : s.seq = .exec) (h : execRow s = .next t) : RowStep s t := by
  cases hop : s.sop with
  | readUnit => exact rowStep_readRow (.inl hs) (by simpa [execRow, hop] using h)
  | encode =>
    obtain rfl : runEncode s = t := by simpa [execRow, hop] using h
    exact rowStep_runEncode hs
  | decode =>
    obtain rfl : runDecode s = t := by simpa [execRow, hop] using h
    exact rowStep_runDecode hs
  | writeUnit =>
    obtain rfl : writeRow s = t := by simpa [execRow, hop] using h
    exact rowStep_writeRow hs

/-- R165, R30: everything one row of the sequencer can do. -/
theorem rowStep_of_seqRow (h : seqRow s = .next t) : RowStep s t := by
  cases hs : s.seq <;> simp only [seqRow, hs, Host.Outcome.next.injEq] at h
  case idle => exact h ▸ ⟨s, .refl s, .waits⟩
  case enc => exact h ▸ rowStep_encRow hs
  case tx => exact h ▸ rowStep_txRow hs
  case waitReady => exact rowStep_readRow (.inr (.inl hs)) h
  case read => exact rowStep_readRow (.inr (.inr hs)) h
  case dec => exact rowStep_decRow hs h
  case matchRec => exact h ▸ rowStep_matchRow hs
  case yield => exact h ▸ rowStep_yieldRow hs
  case flush => exact h ▸ rowStep_errorExit hs
  case exec => exact rowStep_execRow hs h

/-! ### What a row keeps -/

/-- What acceptance latched and the build fixed is the same in both states. -/
def SameLatched (s t : State) : Prop :=
  t.opd = s.opd ∧ t.shape = s.shape ∧ t.gen = s.gen ∧ t.gsel = s.gsel ∧ t.sop = s.sop ∧ t.params = s.params
    ∧ t.host = s.host

theorem Gathers.sameLatched (h : Gathers s u) : SameLatched s u := by
  cases h
  exact ⟨rfl, rfl, rfl, rfl, rfl, rfl, rfl⟩

theorem Gathers.hist_prefix (h : Gathers s u) : s.hist <+: u.hist := by
  cases h
  assumption

/-- R24, R26, R35: a decision changes neither what was latched nor the history. -/
theorem Decides.frame (h : Decides u t) : SameLatched u t ∧ t.hist = u.hist := by
  cases h <;> exact ⟨⟨rfl, rfl, rfl, rfl, rfl, rfl, rfl⟩, rfl⟩

theorem RowStep.sameLatched (h : RowStep s t) : SameLatched s t := by
  obtain ⟨u, hg, hd⟩ := h
  obtain ⟨g1, g2, g3, g4, g5, g6, g7⟩ := hg.sameLatched
  obtain ⟨d1, d2, d3, d4, d5, d6, d7⟩ := hd.frame.1
  exact ⟨d1.trans g1, d2.trans g2, d3.trans g3, d4.trans g4, d5.trans g5, d6.trans g6, d7.trans g7⟩

theorem RowStep.hist_prefix (h : RowStep s t) : s.hist <+: t.hist := by
  obtain ⟨u, hg, hd⟩ := h
  exact hd.frame.2 ▸ hg.hist_prefix

theorem step_of_busy (hb : s.busy = true) : step s = seqRow s := by
  simp [step, hb]

/-- Settles O47: a step of a busy block is a row, and a row keeps what acceptance latched. -/
theorem latchedOperandsAreConstant : Obligations.LatchedOperandsAreConstant := by
  intro s t hb h
  rw [step_of_busy hb] at h
  exact (rowStep_of_seqRow h).sameLatched

end Sys2Proof.Machine
end

section
/-! PROOFS. Induction over the rows one step runs, and what every step keeps: the history and the invariant of the machine. -/

namespace Sys2Proof.Machine

variable {s t u : State}

/-! ### The operation of a word -/

theorem plainOp_eq_ok {w : Byte} {opd : Bytes} {mk : Bytes → Instr} {i : Instr} (h : plainOp w opd mk = .ok i) :
    ∃ p, i = mk p := by
  unfold plainOp at h
  split at h
  · cases h
  · split at h
    · cases h; exact ⟨_, rfl⟩
    · cases h

theorem genOp_eq_ok {w : Byte} {opd : Bytes} {mk : Bool → Bytes → Instr} {i : Instr} (h : genOp w opd mk = .ok i) :
    ∃ gen p, i = mk gen p := by
  unfold genOp at h
  split at h
  · cases h; exact ⟨_, _, rfl⟩
  · cases h

theorem readOp_eq_ok {w : Byte} {i : Instr} (h : readOp w = .ok i) : i = .readUnit := by
  unfold readOp at h
  split at h
  · cases h
  · split at h <;> cases h
    rfl

/-- R88: an operation word asks for a standalone operation or an exchange, never for a wire row. -/
theorem decodeOp_isOperation {w : Byte} {opd : Bytes} {i : Instr} (h : decodeOp w opd = .ok i) :
    (∃ op p, isStandalone i op p) ∨ ∃ shape gen cmd, isExchange i shape gen cmd := by
  unfold decodeOp at h
  split_ifs at h
  · obtain ⟨p, rfl⟩ := plainOp_eq_ok h
    exact .inl ⟨_, _, .inl ⟨rfl, rfl⟩⟩
  · obtain ⟨p, rfl⟩ := plainOp_eq_ok h
    exact .inl ⟨_, _, .inr (.inl ⟨rfl, rfl⟩)⟩
  · obtain rfl := readOp_eq_ok h
    exact .inl ⟨_, _, .inr (.inr (.inl ⟨rfl, rfl, rfl⟩))⟩
  · obtain ⟨p, rfl⟩ := plainOp_eq_ok h
    exact .inl ⟨_, _, .inr (.inr (.inr ⟨rfl, rfl⟩))⟩
  · obtain ⟨p, rfl⟩ := plainOp_eq_ok h
    exact .inr ⟨_, _, _, .inl ⟨rfl, rfl, rfl⟩⟩
  · obtain ⟨gen, p, rfl⟩ := genOp_eq_ok h
    exact .inr ⟨_, _, _, .inr (.inl ⟨rfl, rfl⟩)⟩
  · obtain ⟨gen, p, rfl⟩ := genOp_eq_ok h
    exact .inr ⟨_, _, _, .inr (.inr ⟨rfl, rfl⟩)⟩

/-! ### Induction over the rows of a step -/

/-- What every row keeps, Drain keeps. -/
theorem drive_induction {P : State → Prop} (row : ∀ u v, P u → RowStep u v → P v) (n : Nat) (hs : P s)
    (h : drive n s = .next t) : P t := by
  induction n generalizing s with
  | zero => cases h; exact hs
  | succ n ih =>
    unfold drive at h
    split at h
    · cases h; exact hs
    · split at h
      · rename_i u hu
        exact ih (row s u hs (rowStep_of_seqRow hu)) h
      · cases h
      · cases h

/-- What every row, acceptance and the completion of a reserved word keep, every step keeps. -/
theorem step_induction {P : State → Prop} (row : ∀ u v, P u → RowStep u v → P v) (illegal : P s → P (illegalOp s))
    (standalone : ∀ op opd, P s → P (acceptStandalone op opd s))
    (exchange : ∀ shape gen cmd, (gen = true → shape ≠ .zero) → P s → P (acceptExchange shape gen cmd s))
    (hs : P s) (h : step s = .next t) : P t := by
  by_cases hb : s.busy = true
  · rw [step_of_busy hb] at h
    exact row s t hs (rowStep_of_seqRow h)
  simp only [step, hb, Bool.false_eq_true, if_false, idleStep] at h
  split at h
  · cases h; exact hs
  split at h
  · rename_i i hd
    obtain ⟨op, p, hi⟩ | ⟨shape, gen, cmd, hi⟩ := decodeOp_isOperation hd
    · rw [exec_standalone hi (by simpa using hb)] at h
      exact row _ _ (standalone op p hs) (rowStep_of_seqRow h)
    · obtain ⟨he, hg⟩ := exec_exchange hi (by simpa using hb)
      rw [he] at h
      exact drive_induction row _ (exchange shape gen cmd hg hs) h
  · split at h <;> cases h
    · exact illegal hs
    · exact hs

/-! ### The history -/

theorem txStream_prefix {h k : List Event} (hp : h <+: k) : txStream h <+: txStream k := by
  obtain ⟨e, rfl⟩ := hp
  simp

theorem rxTaken_prefix {h k : List Event} (hp : h <+: k) : rxTaken h <+: rxTaken k := by
  obtain ⟨e, rfl⟩ := hp
  simp

theorem step_hist_prefix (h : step s = .next t) : s.hist <+: t.hist ∧ t.params = s.params := by
  refine step_induction (P := fun u => s.hist <+: u.hist ∧ u.params = s.params) ?_ id (fun _ _ => id) (fun _ _ _ _ => id)
    ⟨List.prefix_refl _, rfl⟩ h
  rintro u v ⟨hh, hp⟩ hrow
  obtain ⟨-, -, -, -, -, hparams, -⟩ := hrow.sameLatched
  exact ⟨hh.trans hrow.hist_prefix, hparams.trans hp⟩

/-- Settles O49: rows only append to the history, and the streams are read off it event by event. -/
theorem historyOnlyGrows : Obligations.HistoryOnlyGrows := by
  intro s t h
  obtain ⟨hh, hp⟩ := step_hist_prefix h
  exact ⟨hh, txStream_prefix hh, rxTaken_prefix hh, hp⟩

/-! ### The invariant: gathering -/

theorem State.Inv.gathers (h : s.Inv) (hg : Gathers s u) : u.Inv := by
  obtain ⟨c, n, buf, rx, rxNext, tx, hist, hlen, hfits, -, hend⟩ := hg
  exact { h with lenBound := hlen h.lenBound, rxDepth := hfits h.rxDepth, history := hend h.history }

/-! ### The invariant: completion -/

theorem cutErrtext_idem (params : Params) (text : Bytes) :
    cutErrtext params (cutErrtext params text) = cutErrtext params text := by
  cases h : params.errtextDepth <;> simp [cutErrtext, h]

@[simp] theorem cutErrtext_nil (params : Params) : cutErrtext params [] = [] := by
  cases h : params.errtextDepth <;> simp [cutErrtext, h]

/-- R200: an error leaves no result and the text within its capacity. -/
theorem State.Inv.complete_error (h : u.Inv) {k : Kind} (hk : k ≠ .ok) (text : Bytes) : (complete k text u).Inv :=
  { h with
    busySeq := by simp
    errKind := by simp
    running := by simp
    failed := by simp [hk]
    succeeded := fun hok => absurd hok hk
    count := by simp [hk]
    itemsOk := by simp [hk]
    raisedOk := by simp
    frmOk := by simp
    lineKept := by simp [keepsLine]
    matchKept := by simp
    yieldKept := by simp
    errDepth := by simp [hk, cutErrtext_idem] }

/-- R200: success of an operation in progress, whatever result it puts. -/
theorem State.Inv.complete_ok (h : u.Inv) (hb : u.seq ≠ .idle) (res : Bytes) (ukind present : Bool) :
    (complete .ok [] { u with res := res, ukind := ukind, resultPresent := present }).Inv :=
  { h with
    busySeq := by simp
    errKind := by simp
    running := by simp
    failed := by simp
    succeeded := by simp
    count := fun _ => h.count (h.running (h.busySeq.mpr hb)).2.1
    raisedOk := by simp
    frmOk := by simp
    lineKept := by simp [keepsLine]
    matchKept := by simp
    yieldKept := by simp
    errDepth := by simp }

/-- R203: the error exit empties ITEMS, as completion with an error does. -/
theorem complete_error_clears_items {k : Kind} (hk : k ≠ .ok) (text : Bytes) (u : State) :
    complete k text { u with items := [] } = complete k text u := by
  simp [complete, completeFlags, hk]

/-! ### The invariant: from row to row -/

/-- The part of the invariant that speaks of what a state of SEQ finds kept. -/
structure KeptOk (t : State) : Prop where
  raisedOk : t.seq = .flush → t.raised.kind ≠ .ok ∧ t.raised.kind ≠ .illegalOp
  frmOk : t.seq = .tx → encodePayload t.opd = some t.frm
  lineKept : keepsLine t → lineOk t.line = true
  matchKept : t.seq = .matchRec → t.gen = true ∧ decodeFrame t.params.hexLowerOk t.line = .ok t.pay
  yieldKept : t.seq = .yield → decodeFrame t.params.hexLowerOk t.line = .ok t.item.payload ∧ t.item.record.isSome = t.gen

/-- R165: an operation in progress goes to another state of SEQ, with what that state needs kept. -/
theorem State.Inv.goto (h : u.Inv) (hu : u.seq ≠ .idle) {q : Seq} {frm line pay : Bytes} {item : Item} {raised : Raise}
    (hq : q ≠ .idle)
    (hk : KeptOk { u with seq := q, frm := frm, line := line, pay := pay, item := item, raised := raised }) :
    State.Inv { u with seq := q, frm := frm, line := line, pay := pay, item := item, raised := raised } :=
  { h with
    busySeq := by simp [h.busySeq, hu, hq]
    raisedOk := hk.raisedOk
    frmOk := hk.frmOk
    lineKept := hk.lineKept
    matchKept := hk.matchKept
    yieldKept := hk.yieldKept }

theorem payloadLenOk_of_decodeFrame {lower : Bool} {f p : Bytes} (h : decodeFrame lower f = .ok p) :
    payloadLenOk p = true := by
  obtain ⟨_, _, _, h1, h2, _⟩ := (decodeFrame_eq_ok_iff _ _ _).mp h
  simp [payloadLenOk, Config.payloadMin, Config.payloadMax, h1, h2]

/-- R158 to R162: the item kept for YIELD joins ITEMS. -/
theorem State.Inv.accept_item (h : u.Inv) (hs : u.seq = .yield) (hsh : u.shape ≠ .zero)
    (hone : u.shape = .one → u.itemcnt = 0) :
    State.Inv { u with items := u.items ++ [u.item], itemcnt := u.itemcnt + 1 } := by
  obtain ⟨-, hkind, -⟩ := h.running (h.busySeq.mpr (by simp [hs]))
  obtain ⟨hd, hrec⟩ := h.yieldKept hs
  refine { h with
    failed := by simp [hkind]
    count := by simp [h.count hkind]
    shapeCount := ⟨fun hz => absurd hz hsh, fun ho => by simp [hone ho]⟩
    itemsOk := ?_ }
  intro it hit
  obtain hit | hit := List.mem_append.mp hit
  · exact h.itemsOk it hit
  · obtain rfl := List.mem_singleton.mp hit
    exact ⟨payloadLenOk_of_decodeFrame hd, hrec⟩

theorem State.Inv.read_next (h : u.Inv) (hu : u.seq ≠ .idle) : State.Inv { u with seq := .read } :=
  h.goto hu (by simp) ⟨by simp, by simp, by simp [keepsLine], by simp, by simp⟩

/-- R150, R165, R200: what a row decides keeps the invariant. -/
theorem State.Inv.decides (h : u.Inv) (hd : Decides u t) : t.Inv := by
  cases hd with
  | waits => exact h
  | raises k text hs hk =>
    exact h.goto hs (by simp) ⟨fun _ => hk, by simp, by simp [keepsLine], by simp, by simp⟩
  | fails k text hs hk => exact h.complete_error hk text
  | succeeds res ukind present hs => exact h.complete_ok (by obtain hs | hs := hs <;> simp [hs]) res ukind present
  | exits hs =>
    obtain ⟨hk, -⟩ := h.raisedOk hs
    rw [complete_error_clears_items hk]
    exact h.complete_error hk _
  | encodes f hs hf => exact h.goto (by simp [hs]) (by simp) ⟨by simp, fun _ => hf, by simp [keepsLine], by simp, by simp⟩
  | sends hs => exact h.goto (by simp [hs]) (by simp) ⟨by simp, by simp, by simp [keepsLine], by simp, by simp⟩
  | starts hs => exact h.read_next (by simp [hs])
  | keeps l hs hl => exact h.goto (by simp [hs]) (by simp) ⟨by simp, by simp, fun _ => hl, by simp, by simp⟩
  | asks p hs hd hg =>
    exact h.goto (by simp [hs]) (by simp)
      ⟨by simp, by simp, fun _ => h.lineKept (.inl hs), fun _ => ⟨hg, hd⟩, by simp⟩
  | passes p hs hd hg =>
    exact h.goto (by simp [hs]) (by simp)
      ⟨by simp, by simp, fun _ => h.lineKept (.inl hs), by simp, fun _ => ⟨hd, hg.symm⟩⟩
  | hits r hs =>
    obtain ⟨hg, hd⟩ := h.matchKept hs
    exact h.goto (by simp [hs]) (by simp)
      ⟨by simp, by simp, fun _ => h.lineKept (.inr (.inl hs)), by simp, fun _ => ⟨hd, hg.symm⟩⟩
  | acceptsOne hs hsh hn =>
    have h1 := h.shapeCount.2 hsh
    have h0 : u.itemcnt = 0 := by omega
    obtain ⟨-, hkind, -⟩ := h.running (h.busySeq.mpr (by simp [hs]))
    have hnil : u.items = [] := List.length_eq_zero_iff.mp ((h.count hkind).symm.trans h0)
    have hacc := (h.accept_item hs (by simp [hsh]) fun _ => h0).read_next (by simp [hs])
    simpa [hnil, h0] using hacc
  | acceptsNext hs hsh => exact (h.accept_item hs (by simp [hsh]) (by simp [hsh])).read_next (by simp [hs])

theorem State.Inv.rowStep (h : s.Inv) (hr : RowStep s t) : t.Inv := by
  obtain ⟨u, hg, hd⟩ := hr
  exact (h.gathers hg).decides hd

/-! ### The invariant: acceptance and the host -/

theorem State.Inv.host (h : s.Inv) (cs : List Command) : State.Inv { s with host := cs } :=
  { h with }

/-- R89: a reserved word. -/
theorem State.Inv.illegalOp (h : s.Inv) : (illegalOp s).Inv :=
  (h.host s.host.tail).complete_error (by decide) []

/-- R165 (first row): what acceptance clears is clear, whatever it latches; XCHG_ZERO has no GEN bit (R88). -/
theorem State.Inv.accept (h : s.Inv) (opd : Bytes) {q : Seq} (hq : q = .exec ∨ q = .enc) (op : Standalone) (shape : Shape)
    (gen : Bool) (g : Matcher) (hg : gen = true → shape ≠ .zero) :
    State.Inv { accept opd s with seq := q, sop := op, shape := shape, gen := gen, gsel := g } := by
  obtain rfl | rfl := hq <;>
    exact { h with
      busySeq := by simp
      errKind := by simp
      running := by simp
      failed := by simp
      succeeded := by simp
      count := by simp
      shapeCount := by simp
      genShape := hg
      itemsOk := by simp
      raisedOk := by simp
      frmOk := by simp
      lineKept := by simp [keepsLine]
      matchKept := by simp
      yieldKept := by simp
      errDepth := by simp }

theorem State.Inv.acceptStandalone (h : s.Inv) (op : Standalone) (opd : Bytes) : (acceptStandalone op opd s).Inv :=
  h.accept opd (.inl rfl) op s.shape s.gen s.gsel h.genShape

theorem State.Inv.acceptExchange (h : s.Inv) (shape : Shape) (gen : Bool) (cmd : Bytes)
    (hg : gen = true → shape ≠ .zero) : (acceptExchange shape gen cmd s).Inv :=
  h.accept cmd (.inr rfl) s.sop shape gen _ hg

/-- Settles O51: rows, acceptance and the completion of a reserved word keep the invariant. -/
theorem stepKeepsTheInvariant : Obligations.StepKeepsTheInvariant := by
  intro s t h hstep
  exact step_induction (fun _ _ hu hr => hu.rowStep hr) (fun hs => hs.illegalOp)
    (fun op opd hs => hs.acceptStandalone op opd) (fun shape gen cmd hg hs => hs.acceptExchange shape gen cmd hg) h hstep

/-- Settles O54: a write changes nothing, accepts an operation, or completes a reserved word. -/
theorem hostWriteKeepsTheInvariant : Obligations.HostWriteKeepsTheInvariant := by
  intro s i v opd g h
  obtain heq | ⟨_, _, op, _, heq⟩ | ⟨_, _, _, _, _, heq⟩ := csrWrite_cases s i v opd g <;> rw [heq]
  · exact h
  · have h' := h.host (⟨v.setWidth 8, opd, g⟩ :: s.host)
    obtain ⟨sop, p, _, ha⟩ | ⟨shape, gen, cmd, _, hg, ha⟩ | ⟨_, ha⟩ :=
        acceptOperation_cases op { s with host := ⟨v.setWidth 8, opd, g⟩ :: s.host } <;> rw [ha]
    · exact h'.acceptStandalone sop p
    · exact h'.acceptExchange shape gen cmd hg
    · exact h'
  · exact (h.host _).illegalOp

end Sys2Proof.Machine
end

section
/-! PROOFS. The rows of EXEC, the idle block, the host registers and the host's write. -/

namespace Sys2Proof.Machine

variable {s : State}

/-- Settles O24: the idle step of an empty host list. -/
theorem idleBlockDoesNothing : Obligations.IdleBlockDoesNothing := by
  intro s hb hh
  simp [step, hb, idleStep, hh]

/-! ### The rows of EXEC -/

theorem encodePayload_of_valid {p : Bytes} (h : validPayload p) : encodePayload p = some (frameOf p) := by
  obtain ⟨h1, h2, h3⟩ := h
  exact (encodePayload_eq_some_iff _ _).mpr ⟨h1, h2, h3, rfl⟩

theorem encodePayload_of_invalid {p : Bytes} (h : ¬ validPayload p) : encodePayload p = none :=
  (encodePayload_eq_none_iff p).mpr h

/-- R22: LEN is the length of a payload of at most 79 bytes. -/
theorem lenCount_of_le {n : Nat} (h : n ≤ 79) : lenCount n = BitVec.ofNat 7 n := by
  rw [lenCount, Nat.min_eq_left (by omega)]

theorem step_exec (hb : s.busy = true) (hs : s.seq = .exec) : step s = execRow s := by
  simp [step_of_busy hb, seqRow, hs]

theorem runEncode_of_valid (h : validPayload s.opd) :
    runEncode s = deliver (frameOf s.opd) false { s with csum := xorfold s.opd, len := BitVec.ofNat 7 s.opd.length } := by
  simp [runEncode, encodeScratch, encodePayload_of_valid h, lenCount_of_le h.2.1]

theorem runEncode_of_invalid (h : ¬ validPayload s.opd) :
    runEncode s = complete .encodeError s.opd { s with len := lenCount s.opd.length } := by
  simp [runEncode, encodeScratch, encodePayload_of_invalid h]

theorem frameShape_of_decodeFrame {lower : Bool} {f p : Bytes} (h : decodeFrame lower f = .ok p) :
    frameShape lower f = some p ∧ p.length ≤ 79 := by
  obtain ⟨hi, lo, hf, h1, h2, h3, h4, _⟩ := (decodeFrame_eq_ok_iff _ _ _).mp h
  exact ⟨(frameShape_eq_some_iff _ _ _).mpr ⟨hi, lo, hf, h1, h2, h3, h4⟩, h2⟩

theorem runDecode_of_frame {p : Bytes} (h : decodeFrame s.params.hexLowerOk s.opd = .ok p) :
    runDecode s = deliver p false { s with csum := xorfold p, len := BitVec.ofNat 7 p.length } := by
  obtain ⟨hshape, hlen⟩ := frameShape_of_decodeFrame h
  simp [runDecode, h, decodeScratch, hshape, lenCount_of_le hlen]

theorem runDecode_of_no_frame (h : ∀ p, decodeFrame s.params.hexLowerOk s.opd ≠ .ok p) :
    ∃ c n, runDecode s = complete .decodeError s.opd { s with csum := c, len := n } := by
  cases hd : decodeFrame s.params.hexLowerOk s.opd with
  | ok p => exact absurd hd (h p)
  | error e =>
    obtain hk | ⟨p, _, hk⟩ := decodeScratch_cases s.opd s
    · exact ⟨s.csum, s.len, by simp [runDecode, hd, hk]⟩
    · exact ⟨xorfold p, lenCount p.length, by simp only [runDecode, hd, hk]⟩

theorem writeRow_of_no_answer (h : s.tx = []) : writeRow s = s := by
  simp [writeRow, transportWrite, h]

theorem writeRow_of_all {k : Nat} {ks : List Nat} (h : s.tx = k :: ks) (hk : s.opd.length ≤ k) :
    writeRow s = complete .ok [] { s with tx := ks, hist := s.hist ++ [.write s.opd s.opd.length] } := by
  simp [writeRow, transportWrite, h, Nat.min_eq_right hk, record]

theorem writeRow_of_short {k : Nat} {ks : List Nat} (h : s.tx = k :: ks) (hk : k < s.opd.length) :
    writeRow s = complete .writeError [] { s with tx := ks, hist := s.hist ++ [.write s.opd k] } := by
  simp [writeRow, transportWrite, h, Nat.min_eq_left hk.le, hk.ne, record]

theorem execRow_encode (h : s.sop = .encode) : execRow s = .next (runEncode s) := by
  simp [execRow, h]

theorem execRow_decode (h : s.sop = .decode) : execRow s = .next (runDecode s) := by
  simp [execRow, h]

theorem execRow_writeUnit (h : s.sop = .writeUnit) : execRow s = .next (writeRow s) := by
  simp [execRow, h]

/-- R200: success keeps the result and what else the operation left. -/
theorem complete_of_ok (text : Bytes) (s : State) : complete .ok text s = { s with
    kind := .ok, err := false, doneF := true, busy := false, seq := .idle, errtext := [] } := by
  simp [complete, completeFlags]

/-- R200: an error voids the result and reports its text. -/
theorem complete_of_error {k : Kind} (hk : k ≠ .ok) (text : Bytes) (s : State) : complete k text s = { s with
    kind := k, err := true, doneF := true, busy := false, seq := .idle, res := [], items := []
    resultPresent := false, ukind := false, errtext := cutErrtext s.params text } := by
  simp [complete, completeFlags, hk]

/-- Settles O53: EXEC runs the operation latched; each ends in a completion or waits. -/
theorem execRowsOfTheSequencer : Obligations.ExecRowsOfTheSequencer := by
  intro s hb hs
  rw [step_exec hb hs]
  refine ⟨fun hop hv => ?_, fun hop hv => ?_, fun p hop hd => ?_, fun hop hd => ?_, fun k ks hop ht hk => ?_,
    fun k ks hop ht hk => ?_, fun hop ht => ?_⟩
  · rw [execRow_encode hop, runEncode_of_valid hv, deliver, complete_of_ok]
    rfl
  · rw [execRow_encode hop, runEncode_of_invalid hv, complete_of_error (by decide)]
    exact ⟨s.csum, rfl⟩
  · rw [execRow_decode hop, runDecode_of_frame hd, deliver, complete_of_ok]
  · obtain ⟨c, n, h⟩ := runDecode_of_no_frame hd
    rw [execRow_decode hop, h, complete_of_error (by decide)]
    exact ⟨c, n, rfl⟩
  · rw [execRow_writeUnit hop, writeRow_of_all ht hk, complete_of_ok]
  · rw [execRow_writeUnit hop, writeRow_of_short ht hk, complete_of_error (by decide), cutErrtext_nil]
  · rw [execRow_writeUnit hop, writeRow_of_no_answer ht]

/-! ### The host registers -/

theorem sat16_toNat (n : Nat) : (sat16 n).toNat = min n 0xFFFF := by
  simp only [sat16, BitVec.toNat_ofNat]
  omega

/-- R36: the flags of STATUS, bits 4:0. -/
theorem statusWord_flags (s : State) :
    (statusWord s).getLsbD 0 = s.busy ∧ (statusWord s).getLsbD 1 = s.doneF ∧ (statusWord s).getLsbD 2 = s.err
      ∧ (statusWord s).getLsbD 3 = s.resultPresent ∧ (statusWord s).getLsbD 4 = s.ukind := by
  simp only [statusWord, BitVec.getLsbD_append]
  simp

/-- R36: KIND and SEQ in STATUS; bits 15:12 are unused. -/
theorem statusWord_codes (s : State) :
    (statusWord s).extractLsb' 5 3 = kindCode s.kind ∧ (statusWord s).extractLsb' 8 4 = seqCode s.seq
      ∧ (statusWord s).extractLsb' 12 4 = 0#4 := by
  simp (disch := decide) only [statusWord, BitVec.extractLsb'_append_eq_of_add_le, BitVec.extractLsb'_append_eq_of_le]
  simp

/-- R36: the fields of MODE. -/
theorem modeWord_fields (s : State) :
    (modeWord s).extractLsb' 0 2 = shapeCode s.shape ∧ (modeWord s).getLsbD 2 = s.gen
      ∧ (modeWord s).extractLsb' 3 13 = 0#13 := by
  simp (disch := decide) only [modeWord, BitVec.extractLsb'_append_eq_of_add_le, BitVec.extractLsb'_append_eq_of_le,
    BitVec.getLsbD_append]
  simp

/-- R36: the fields of PARAM. -/
theorem paramWord_fields (s : State) :
    (paramWord s).getLsbD 0 = s.params.hexLowerOk ∧ (paramWord s).getLsbD 1 = s.params.flushClearsRxbuf
      ∧ (paramWord s).extractLsb' 2 14 = 0#14 := by
  simp (disch := decide) only [paramWord, BitVec.extractLsb'_append_eq_of_le, BitVec.getLsbD_append]
  simp

/-! ### The host's write -/

/-- The idle block with the command presented at csr[0] next in line. -/
def presented (s : State) (v : HostWord) (opd : Bytes) (g : Matcher) : State :=
  { s with host := ⟨v.extractLsb' 0 8, opd, g⟩ :: s.host }

theorem csrWrite_other {i : BitVec 3} (hi : i ≠ 0#3) (s : State) (v : HostWord) (opd : Bytes) (g : Matcher) :
    csrWrite s i v opd g = s := by
  simp [csrWrite, hi]

theorem csrWrite_of_busy (hb : s.busy = true) (i : BitVec 3) (v : HostWord) (opd : Bytes) (g : Matcher) :
    csrWrite s i v opd g = s := by
  simp [csrWrite, hb]

theorem csrWrite_of_idle (hb : s.busy = false) (v : HostWord) (opd : Bytes) (g : Matcher) :
    csrWrite s 0#3 v opd g = startCommand ⟨v.extractLsb' 0 8, opd, g⟩ s := by
  simp [csrWrite, hb, BitVec.setWidth_eq_extractLsb']

variable {v : HostWord} {opd : Bytes} {g : Matcher} {i : Instr}

theorem csrWrite_operation (hb : s.busy = false) (hd : decodeOp (v.extractLsb' 0 8) opd = .ok i) :
    csrWrite s 0#3 v opd g = acceptOperation i (presented s v opd g) := by
  rw [csrWrite_of_idle hb, startCommand, decodeCommand, hd]
  rfl

theorem csrWrite_reserved {e : Reject} (hb : s.busy = false) (hd : decodeOp (v.extractLsb' 0 8) opd = .error e)
    (he : e.isReserved = true) : csrWrite s 0#3 v opd g = illegalOp (presented s v opd g) := by
  simp [csrWrite_of_idle hb, startCommand, decodeCommand, hd, he, presented]

theorem csrWrite_operandMissing (hb : s.busy = false)
    (hd : decodeOp (v.extractLsb' 0 8) opd = .error .operandMissing) : csrWrite s 0#3 v opd g = s := by
  simp [csrWrite_of_idle hb, startCommand, decodeCommand, hd, Reject.isReserved]

theorem acceptOperation_standalone {op : Standalone} {p : Bytes} (h : isStandalone i op p) (s : State) :
    acceptOperation i s = acceptStandalone op p s := by
  obtain ⟨rfl, rfl⟩ | ⟨rfl, rfl⟩ | ⟨rfl, rfl, rfl⟩ | ⟨rfl, rfl⟩ := h <;> rfl

theorem acceptOperation_exchange {shape : Shape} {gen : Bool} {cmd : Bytes} (h : isExchange i shape gen cmd) (s : State) :
    acceptOperation i s = acceptExchange shape gen cmd s := by
  obtain ⟨rfl, rfl, rfl⟩ | ⟨rfl, rfl⟩ | ⟨rfl, rfl⟩ := h <;> rfl

/-- R30, R206: what acceptance of a standalone operation leaves. -/
theorem acceptStandalone_eq (op : Standalone) (p : Bytes) (s : State) : acceptStandalone op p s = { s with
    itemcnt := 0, seq := .exec, opd := p, res := [], items := [], errtext := [], busy := true, doneF := false
    err := false, resultPresent := false, ukind := false, kind := .ok, sop := op, host := s.host.tail } :=
  rfl

/-- R24, R165, R181: what acceptance of an exchange leaves. -/
theorem acceptExchange_eq (shape : Shape) (gen : Bool) (cmd : Bytes) (s : State) : acceptExchange shape gen cmd s = { s with
    itemcnt := 0, shape := shape, gen := gen, seq := .enc, opd := cmd, res := [], items := [], errtext := []
    busy := true, doneF := false, err := false, resultPresent := false, ukind := false, kind := .ok
    gsel := if gen then presentedMatcher s else s.gsel, host := s.host.tail } :=
  rfl

/-- R32, R33, R36: the operation of a word written to an idle block is accepted. -/
theorem csrWrite_accepts (hb : s.busy = false) (hd : decodeOp (v.extractLsb' 0 8) opd = .ok i) :
    let t := csrWrite s 0#3 v opd g
    t.busy = true ∧ t.doneF = false ∧ t.kind = .ok ∧ t.host = s.host := by
  rw [csrWrite_operation hb hd]
  obtain ⟨op, p, hi⟩ | ⟨shape, gen, cmd, hi⟩ := decodeOp_isOperation hd
  · rw [acceptOperation_standalone hi]
    exact ⟨rfl, rfl, rfl, rfl⟩
  · rw [acceptOperation_exchange hi]
    exact ⟨rfl, rfl, rfl, rfl⟩

/-- Settles O23: STATUS, MODE and PARAM field by field, the counts through their cap, and the cases of a write. -/
theorem hostRegistersShowTheState : Obligations.HostRegistersShowTheState := by
  refine ⟨fun s => ?_, by decide, fun s i v opd g => ⟨fun hi => csrWrite_other hi s v opd g,
    fun _ hb => csrWrite_of_busy hb i v opd g, ?_, ?_⟩, rfl, rfl, rfl⟩
  · obtain ⟨b0, b1, b2, b3, b4⟩ := statusWord_flags s
    obtain ⟨kind, seq, unused⟩ := statusWord_codes s
    obtain ⟨shape, gen, unused'⟩ := modeWord_fields s
    exact ⟨rfl, b0, b1, b2, b3, b4, kind, seq, unused, sat16_toNat _, sat16_toNat _, sat16_toNat _, sat16_toNat _,
      shape, gen, unused', paramWord_fields s⟩
  · rintro op rfl hb hd
    obtain ⟨hbusy, hdone, hkind, hhost⟩ := csrWrite_accepts (g := g) hb hd
    obtain ⟨b0, b1, -⟩ := statusWord_flags (csrWrite s 0#3 v opd g)
    obtain ⟨kind, -⟩ := statusWord_codes (csrWrite s 0#3 v opd g)
    have hcode : kindCode (csrWrite s 0#3 v opd g).kind = 0#3 := by rw [hkind]; rfl
    exact ⟨hbusy, b0.trans hbusy, b1.trans hdone, kind.trans hcode, hhost, csrWrite_of_busy hbusy⟩
  · rintro rfl hb hd
    exact csrWrite_operandMissing hb hd

/-- Settles O52: the write is acceptance of the command presented, which is where exec of it begins. -/
theorem writtenWordStartsTheOperation : Obligations.WrittenWordStartsTheOperation := by
  intro s v opd g hb
  have hq : (presented s v opd g).busy = false := hb
  refine ⟨fun i op p hd hi => ?_, fun i shape gen cmd hd hi => ?_, fun e hd he => ?_⟩
  · rw [csrWrite_operation hb hd, acceptOperation_standalone hi]
    constructor
    · rw [acceptStandalone_eq]
      simp only [presented, List.tail_cons]
    · rw [step_of_busy rfl]
      exact (exec_standalone hi hq).symm
  · rw [csrWrite_operation hb hd, acceptOperation_exchange hi]
    constructor
    · rw [acceptExchange_eq]
      simp only [presented, presentedMatcher, List.tail_cons]
    · exact (exec_exchange hi hq).1.symm
  · rw [csrWrite_reserved hb hd he, illegalOp, complete_of_error (by decide), cutErrtext_nil]
    simp [dropCommand, presented, hb]

end Sys2Proof.Machine
end

section
/-! PROOFS. The three ports of a step: a state that reads a unit runs ReadUnit, DEC runs the frame of the line kept, an idle
block runs the operation of its next command; and what a fill past a finite RXBUF_DEPTH comes to. -/

namespace Sys2Proof.Machine

variable {s : State}

/-! ### The rows that read -/

theorem readsUnit_iff (s : State) : s.readsUnit = true ↔
    s.busy = true ∧ (s.seq = .waitReady ∨ s.seq = .read ∨ (s.seq = .exec ∧ s.sop = .readUnit)) := by
  simp [State.readsUnit, or_assoc]

/-- R131, R165: WAIT_READY, READ and a READ_UNIT in EXEC are one ReadUnit. -/
theorem step_of_readsUnit (h : s.readsUnit = true) : step s = readRow s := by
  obtain ⟨hb, hs | hs | ⟨hs, hop⟩⟩ := (readsUnit_iff s).mp h
  · simp [step_of_busy hb, seqRow, hs]
  · simp [step_of_busy hb, seqRow, hs]
  · simp [step_exec hb hs, execRow, hop]

/-- R30, R132: READ_UNIT given to an idle block is one ReadUnit from the state its acceptance leaves. -/
theorem exec_readUnit_of_idle (hb : s.busy = false) : exec .readUnit s = readRow (acceptStandalone .readUnit [] s) := by
  rw [exec_standalone (.inr (.inr (.inl ⟨rfl, rfl, rfl⟩))) hb]
  rfl

/-! ### Fills past a finite depth -/

theorem rxbufFits_of_depth {params : Params} {d : Nat} (h : params.rxbufDepth = some d) (n : Nat) :
    rxbufFits params n = decide (n ≤ d) := by
  simp [rxbufFits, h]

theorem fetchUnit_data_overflow {b : Byte} {bs : Bytes} (rest : List ReadAnswer) (hc : cutUnit s.rxbuf = none)
    (hf : rxbufFits s.params (s.rxbuf.length + (bs.length + 1)) = false) :
    fetchUnit (.data b bs :: rest) s = .overflow := by
  simp [fetchUnit, hc, fill, hf]

/-- R63, R131: the chunks before the overfull one are taken in, and none of them ends the search for a unit. -/
theorem readRow_overfull {d : Nat} {cs : List (Byte × Bytes)} {b : Byte} {bs : Bytes} {rest : List ReadAnswer}
    (hd : s.params.rxbufDepth = some d) (hrx : s.rx = dataAnswers cs ++ .data b bs :: rest)
    (hfit : (s.rxbuf ++ chunkBytes cs).length ≤ d) (hc : cutUnit (s.rxbuf ++ chunkBytes cs) = none)
    (hover : d < (s.rxbuf ++ chunkBytes cs).length + (bs.length + 1)) : readRow s = .refused .rxbufOverflow := by
  have hcs : rxbufFits s.params (s.rxbuf ++ chunkBytes cs).length = true := by simpa [rxbufFits_of_depth hd] using hfit
  have hchunk : rxbufFits s.params ((s.rxbuf ++ chunkBytes cs).length + (bs.length + 1)) = false := by
    rw [rxbufFits_of_depth hd]
    exact decide_eq_false (Nat.not_le.mpr hover)
  have hfetch : fetchUnit s.rx s = .overflow := by
    rw [hrx, fetchUnit_no_unit cs _ s hcs hc]
    exact fetchUnit_data_overflow (s := afterFills s cs s.rx) rest hc hchunk
  rw [readRow, hfetch]

/-- Settles O8: both ways of reading are one ReadUnit, and acceptance leaves RXBUF, its depth and the answers as they are. -/
theorem overfullReceiveBufferIsRefused : Obligations.OverfullReceiveBufferIsRefused := by
  intro s d cs b bs rest hd hrx hfit hc hover
  constructor
  · intro hb
    rw [exec_readUnit_of_idle hb]
    exact readRow_overfull (s := acceptStandalone .readUnit [] s) hd hrx hfit hc hover
  · intro hr
    rw [step_of_readsUnit hr]
    exact readRow_overfull hd hrx hfit hc hover

/-! ### What a step fetches -/

theorem step_of_command {c : Command} {cs : List Command} {i : Instr} (hb : s.busy = false) (hh : s.host = c :: cs)
    (hd : decodeCommand c = .ok i) : step s = exec i s := by
  simp [step, hb, idleStep, hh, hd]

/-- R132: a unit means what the wire row it is means. -/
theorem unitMeaning_eq_exec (u : RxUnit) (s : State) : unitMeaning u s = exec u.toInstr s := by
  cases u <;> rfl

theorem readRow_of_found {t : State} {u : RxUnit} (h : fetchUnit s.rx s = .found u t) : readRow s = exec u.toInstr t := by
  rw [readRow, h, ← unitMeaning_eq_exec]

theorem step_dec (hb : s.busy = true) (hs : s.seq = .dec) : step s = decRow s := by
  simp [step_of_busy hb, seqRow, hs]

/-- R157: a line kept that is a frame means what the wire row FRAME means. -/
theorem decRow_of_frame {p : Bytes} (h : decodeFrame s.params.hexLowerOk s.line = .ok p) : decRow s = exec (.frame p) s := by
  rw [decRow, h]
  rfl

/-- Settles O19, port by port: the host's list, RXBUF, the line kept. -/
theorem stepRunsTheDecodedInstruction : Obligations.StepRunsTheDecodedInstruction := by
  refine ⟨fun s c cs i hb hh hd => step_of_command hb hh hd, fun s t u hr hf => ?_, fun s p hb hs hd => ?_⟩
  · rw [step_of_readsUnit hr, readRow_of_found hf]
  · rw [step_dec hb hs, decRow_of_frame hd]

end Sys2Proof.Machine
end

section
/-! PROOFS. The decoder and the encoder: what decode answers at each port, the operation word by its fields, the digits of the
checksum, and the round trip in both directions. -/

namespace Sys2Proof

/-! ### The decoder at each port -/

theorem decode_host_eq_ok_iff {lower : Bool} {bs rest : Bytes} {i : Instr} : decode .host lower bs = .ok (i, rest) ↔
    rest = [] ∧ ∃ w opd, bs = w :: opd ∧ decodeOp w opd = .ok i := by
  cases bs with
  | nil => simp [decode]
  | cons w opd => cases hd : decodeOp w opd <;> simp [decode, hd, and_comm, eq_comm]

theorem decode_unit_eq_ok_iff {lower : Bool} {bs rest : Bytes} {i : Instr} : decode .unit lower bs = .ok (i, rest) ↔
    ∃ u, cutUnit bs = some (u, rest) ∧ i = u.toInstr := by
  cases bs with
  | nil => simp [decode, cutUnit]
  | cons b bs =>
    cases hc : cutUnit (b :: bs) with
    | none => simp [decode, hc]
    | some q => simp [decode, hc, Prod.ext_iff, and_comm, eq_comm]

theorem decode_frame_eq_ok_iff {lower : Bool} {bs rest : Bytes} {i : Instr} : decode .frame lower bs = .ok (i, rest) ↔
    rest = [] ∧ ∃ p, decodeFrame lower bs = .ok p ∧ i = .frame p := by
  cases hd : decodeFrame lower bs <;> simp [decode, hd, and_comm, eq_comm]

/-! ### The fields of the operation word -/

/-- R88: the word is its four fields. -/
theorem opWord_of_fields : ∀ w : Byte, opReserved w = 0#2 → opWord (opEmpty w) (opGen w) (opOpc w) = w := by decide

@[simp] theorem opReserved_opWord (e g : Bool) (o : BitVec 4) : opReserved (opWord e g o) = 0#2 :=
  (Laws.FirstByte.word_fields e g o).1

@[simp] theorem opEmpty_opWord (e g : Bool) (o : BitVec 4) : opEmpty (opWord e g o) = e :=
  (Laws.FirstByte.word_fields e g o).2

@[simp] theorem opGen_opWord : ∀ (e g : Bool) (o : BitVec 4), opGen (opWord e g o) = g := by decide

@[simp] theorem opOpc_opWord : ∀ (e g : Bool) (o : BitVec 4), opOpc (opWord e g o) = o := by decide

theorem opOpc_toNat (w : Byte) : (opOpc w).toNat = w.toNat % 16 := by
  simp [opOpc]

theorem opReserved_toNat (w : Byte) : (opReserved w).toNat = w.toNat / 32 % 4 := by
  simp [opReserved, Nat.shiftRight_eq_div_pow]

theorem opGen_iff_toNat (w : Byte) : opGen w = true ↔ w.toNat / 16 % 2 = 1 := by
  simp [opGen, BitVec.getLsbD, Nat.testBit_eq_decide_div_mod_eq]

theorem opEmpty_iff_toNat (w : Byte) : opEmpty w = true ↔ w.toNat / 128 = 1 := by
  have := w.isLt
  simp only [opEmpty, BitVec.getLsbD, Nat.testBit_eq_decide_div_mod_eq, decide_eq_true_eq]
  omega

/-! ### The operand -/

/-- R88: the operand is what the word's EMPTY bit says, or is still awaited. -/
theorem operandOf_cases (w : Byte) (opd : Bytes) :
    (opEmpty w = true ∧ operandOf w opd = .ok []) ∨ (opEmpty w = false ∧ opd ≠ [] ∧ operandOf w opd = .ok opd)
      ∨ (opEmpty w = false ∧ opd = [] ∧ operandOf w opd = .error .operandMissing) := by
  cases he : opEmpty w <;> cases opd <;> simp [operandOf, he]

/-- R88: where the EMPTY bit agrees with the operand stream, the operand is the whole stream. -/
theorem operandOf_of_agrees {w : Byte} {opd : Bytes} (h : opEmpty w = true ↔ opd = []) : operandOf w opd = .ok opd := by
  obtain ⟨he, ho⟩ | ⟨_, _, ho⟩ | ⟨he, hn, _⟩ := operandOf_cases w opd
  · rw [ho, h.mp he]
  · exact ho
  · simp [he, hn] at h

@[simp] theorem operandOf_opWord (g : Bool) (o : BitVec 4) (opd : Bytes) :
    operandOf (opWord opd.isEmpty g o) opd = .ok opd :=
  operandOf_of_agrees (by simp)

/-! ### Everything an operation word can ask for -/

/-- R89: the reserved operation words, by their fields. -/
def reservedWord (w : Byte) : Prop :=
  opReserved w ≠ 0#2 ∨ opOpc w ∉ [0x1#4, 0x2#4, 0x3#4, 0x4#4, 0x8#4, 0x9#4, 0xA#4]
    ∨ (opGen w = true ∧ opOpc w ≠ 0x9#4 ∧ opOpc w ≠ 0xA#4) ∨ (opOpc w = 0x3#4 ∧ opEmpty w = false)

/-- What decoding a word with its operand stream can come to: a reserved word (R89), an operand still awaited, or the
operation that the word's fields encode, with its operand (R88). -/
inductive WordOutcome (w : Byte) (opd : Bytes) : Except Reject Instr → Prop where
  | reserved (e : Reject) (hw : reservedWord w) (he : e.isReserved = true) : WordOutcome w opd (.error e)
  | awaits (hw : ¬ reservedWord w) (ho : operandOf w opd = .error .operandMissing) :
      WordOutcome w opd (.error .operandMissing)
  | operation (i : Instr) (p : Bytes) (hw : ¬ reservedWord w) (ho : operandOf w opd = .ok p) (hport : i.port = .host)
      (hi : encode i = opBytes (opGen w) (opOpc w) p) : WordOutcome w opd (.ok i)

section
variable {w : Byte} {opd : Bytes}

theorem wordOutcome_genOp {mk : Bool → Bytes → Instr} (hw : ¬ reservedWord w) (hport : ∀ p, (mk (opGen w) p).port = .host)
    (hmk : ∀ p, encode (mk (opGen w) p) = opBytes (opGen w) (opOpc w) p) : WordOutcome w opd (genOp w opd mk) := by
  obtain ⟨_, ho⟩ | ⟨_, _, ho⟩ | ⟨_, _, ho⟩ := operandOf_cases w opd <;> simp only [genOp, ho]
  · exact .operation _ _ hw ho (hport _) (hmk _)
  · exact .operation _ _ hw ho (hport _) (hmk _)
  · exact .awaits hw ho

theorem wordOutcome_plainOp {mk : Bytes → Instr} (hw : reservedWord w ↔ opGen w = true) (hport : ∀ p, (mk p).port = .host)
    (hmk : ∀ p, encode (mk p) = opBytes false (opOpc w) p) : WordOutcome w opd (plainOp w opd mk) := by
  cases hg : opGen w with
  | true =>
    rw [plainOp, hg, if_pos rfl]
    exact .reserved _ (hw.mpr hg) rfl
  | false =>
    have hgen : plainOp w opd mk = genOp w opd fun _ => mk := by simp [plainOp, genOp, hg]
    rw [hgen]
    exact wordOutcome_genOp (by simp [hw, hg]) hport (by simpa [hg] using hmk)

theorem wordOutcome_readOp (hw : reservedWord w ↔ opGen w = true ∨ opEmpty w = false) (hopc : opOpc w = 0x3#4) :
    WordOutcome w opd (readOp w) := by
  cases hg : opGen w with
  | true =>
    rw [readOp, hg, if_pos rfl]
    exact .reserved _ (hw.mpr (.inl hg)) rfl
  | false =>
    cases he : opEmpty w with
    | true =>
      have ho : operandOf w opd = .ok [] := by simp [operandOf, he]
      simp only [readOp, hg, he, Bool.false_eq_true, if_false, if_true]
      exact .operation _ _ (by simp [hw, hg, he]) ho rfl (by rw [hg, hopc]; rfl)
    | false =>
      simp only [readOp, hg, he, Bool.false_eq_true, if_false]
      exact .reserved _ (hw.mpr (.inr he)) rfl

end

/-- R88, R89: what a word asks for, opcode by opcode. -/
theorem decodeOp_outcome (w : Byte) (opd : Bytes) : WordOutcome w opd (decodeOp w opd) := by
  unfold decodeOp
  split_ifs with hr h1 h2 h3 h4 h8 h9 hA
  · exact .reserved _ (.inl hr) rfl
  · exact wordOutcome_plainOp (by simp [reservedWord, hr, h1]) (fun _ => rfl) (by simp [encode, h1])
  · exact wordOutcome_plainOp (by simp [reservedWord, hr, h2]) (fun _ => rfl) (by simp [encode, h2])
  · exact wordOutcome_readOp (by simp [reservedWord, hr, h3]) h3
  · exact wordOutcome_plainOp (by simp [reservedWord, hr, h4]) (fun _ => rfl) (by simp [encode, h4])
  · exact wordOutcome_plainOp (by simp [reservedWord, hr, h8]) (fun _ => rfl) (by simp [encode, h8])
  · exact wordOutcome_genOp (by simp [reservedWord, hr, h9]) (fun _ => rfl) (by simp [encode, h9])
  · exact wordOutcome_genOp (by simp [reservedWord, hr, hA]) (fun _ => rfl) (by simp [encode, hA])
  · exact .reserved _ (.inr (.inl (by simp [h1, h2, h3, h4, h8, h9, hA]))) rfl

theorem decodeOp_of_reserved {w : Byte} (h : reservedWord w) (opd : Bytes) :
    ∃ e, decodeOp w opd = .error e ∧ e.isReserved = true := by
  have hout := decodeOp_outcome w opd
  generalize decodeOp w opd = r at hout
  cases hout with
  | reserved e _ he => exact ⟨e, rfl, he⟩
  | awaits hw _ => exact absurd h hw
  | operation _ _ hw => exact absurd h hw

theorem decodeOp_of_not_reserved {w : Byte} {opd p : Bytes} (h : ¬ reservedWord w) (hp : operandOf w opd = .ok p) :
    ∃ i, decodeOp w opd = .ok i := by
  have hout := decodeOp_outcome w opd
  generalize decodeOp w opd = r at hout
  cases hout with
  | reserved _ hw => exact absurd hw h
  | awaits _ ho => rw [hp] at ho; cases ho
  | operation i => exact ⟨i, rfl⟩

/-- R88: the operation decoded is the one that the word's fields encode. -/
theorem encode_of_decodeOp {w : Byte} {opd : Bytes} {i : Instr} (h : decodeOp w opd = .ok i) :
    i.port = .host ∧ ∃ p, operandOf w opd = .ok p ∧ encode i = opBytes (opGen w) (opOpc w) p := by
  have hout := decodeOp_outcome w opd
  rw [h] at hout
  cases hout with
  | operation _ p _ ho hport hi => exact ⟨hport, p, ho, hi⟩

theorem opReserved_of_decodeOp {w : Byte} {opd : Bytes} {i : Instr} (h : decodeOp w opd = .ok i) : opReserved w = 0#2 := by
  by_contra hr
  obtain ⟨e, he, _⟩ := decodeOp_of_reserved (.inl hr) opd
  rw [h] at he
  cases he

/-- R88: a word whose EMPTY bit agrees with its operand stream is the encoding of its operation. -/
theorem encode_eq_of_decodeOp {w : Byte} {opd : Bytes} {i : Instr} (h : decodeOp w opd = .ok i)
    (ha : opEmpty w = true ↔ opd = []) : encode i = w :: opd := by
  obtain ⟨_, p, ho, hi⟩ := encode_of_decodeOp h
  rw [operandOf_of_agrees ha] at ho
  cases ho
  have he : opd.isEmpty = opEmpty w := by rw [Bool.eq_iff_iff, ha, List.isEmpty_iff]
  rw [hi, opBytes, he, opWord_of_fields w (opReserved_of_decodeOp h)]

/-! ### Decoding what is encoded -/

@[simp] theorem encode_toInstr (u : RxUnit) : encode u.toInstr = u.bytes := by
  cases u <;> rfl

@[simp] theorem port_toInstr (u : RxUnit) : u.toInstr.port = .unit := by
  cases u <;> rfl

theorem wf_toInstr_iff (u : RxUnit) : u.toInstr.wf = true ↔ ∀ l, u = .line l → lineOk l = true := by
  cases u <;> simp [RxUnit.toInstr, Instr.wf]

theorem payloadLenOk_iff (p : Bytes) : payloadLenOk p = true ↔ 1 ≤ p.length ∧ p.length ≤ 79 := by
  simp [payloadLenOk, Config.payloadMin, Config.payloadMax]

/-- R85, R132: a unit, alone, is cut whole. -/
theorem decode_encode_unit (lower : Bool) (u : RxUnit) (h : u.toInstr.wf = true) :
    decode .unit lower (encode u.toInstr) = .ok (u.toInstr, []) := by
  rw [decode_unit_eq_ok_iff]
  exact ⟨u, (cutUnit_eq_some_iff _ _ _).mpr ⟨by simp, (wf_toInstr_iff u).mp h⟩, rfl⟩

/-- R112, R114: the frame of any payload of 1 to 79 bytes decodes to it. -/
theorem decodeFrame_frameOf (lower : Bool) {p : Bytes} (h : payloadLenOk p = true) :
    decodeFrame lower (frameOf p) = .ok p := by
  obtain ⟨h1, h2⟩ := (payloadLenOk_iff p).mp h
  obtain ⟨hhi, hlo, hval⟩ := hex_digits_read_back lower (xorfold p)
  exact (decodeFrame_eq_ok_iff _ _ _).mpr ⟨_, _, rfl, h1, h2, hhi, hlo, hval⟩

/-- R88: an operation word and its operand decode to their operation. -/
theorem decode_encode_host (lower : Bool) (i : Instr) (h : i.port = .host) :
    decode .host lower (encode i) = .ok (i, []) := by
  rw [decode_host_eq_ok_iff]
  refine ⟨rfl, ?_⟩
  cases i with
  | encode opd | decode opd | writeUnit opd | xchgZero opd =>
    exact ⟨_, _, rfl, by simp [decodeOp, plainOp]⟩
  | readUnit => exact ⟨_, _, rfl, by simp [decodeOp, readOp]⟩
  | xchgOne gen opd | xchgMany gen opd => exact ⟨_, _, rfl, by simp [decodeOp, genOp]⟩
  | ctlReady | ctlDone | line l | frame p => cases h

/-- Settles O26, port by port. -/
theorem decodeOfEncodeIsTheInstruction : Obligations.DecodeOfEncodeIsTheInstruction := by
  intro lower i hwf
  cases i with
  | encode opd | decode opd | readUnit | writeUnit opd | xchgZero opd | xchgOne gen opd | xchgMany gen opd =>
    exact decode_encode_host lower _ rfl
  | ctlReady => exact decode_encode_unit lower .ready hwf
  | ctlDone => exact decode_encode_unit lower .done hwf
  | line l => exact decode_encode_unit lower (.line l) hwf
  | frame p => exact decode_frame_eq_ok_iff.mpr ⟨rfl, p, decodeFrame_frameOf lower hwf, rfl⟩

/-! ### The digits of the checksum field -/

theorem hexval_lt : ∀ (lower : Bool) (b : Byte), ishex lower b = true → hexval b < 16 := by decide

/-- R9: an upper-case hex digit is the digit of its value. -/
theorem hexdigit_hexval : ∀ b : Byte, ishex false b = true → hexdigit (BitVec.ofNat 4 (hexval b)) = b := by decide

theorem hexval_inj {a b : Byte} (ha : ishex false a = true) (hb : ishex false b = true) (h : hexval a = hexval b) :
    a = b := by
  rw [← hexdigit_hexval a ha, h, hexdigit_hexval b hb]

/-- R83: two digits that read as a byte have the values of the digits Encode writes. -/
theorem hexval_of_checksum {lower : Bool} {h l : Byte} (c : Byte) (hl : ishex lower l = true)
    (hc : c.toNat = 16 * hexval h + hexval l) : hexval (hexhi c) = hexval h ∧ hexval (hexlo c) = hexval l := by
  obtain ⟨hhi, hlo, hval⟩ := hex_digits_read_back lower c
  have := hexval_lt _ _ hl
  have := hexval_lt _ _ hlo
  omega

/-! ### Encoding what was decoded -/

theorem wf_of_port_host {i : Instr} (h : i.port = .host) : i.wf = true := by
  cases i with
  | encode opd | decode opd | readUnit | writeUnit opd | xchgZero opd | xchgOne gen opd | xchgMany gen opd => rfl
  | ctlReady | ctlDone | line l | frame p => cases h

/-- R83, R114: a frame decoded is the frame of its payload, but for the letter case of its two digits. -/
theorem frame_of_decodeFrame {lower : Bool} {f p : Bytes} (h : decodeFrame lower f = .ok p) :
    payloadLenOk p = true ∧ ∃ hi lo, f = Config.sof :: (p ++ [Config.sep, hi, lo, Config.cr, Config.lf])
      ∧ ishex lower hi = true ∧ ishex lower lo = true
      ∧ hexval (hexhi (xorfold p)) = hexval hi ∧ hexval (hexlo (xorfold p)) = hexval lo := by
  obtain ⟨hi, lo, hf, h1, h2, hhi, hlo, hc⟩ := (decodeFrame_eq_ok_iff _ _ _).mp h
  obtain ⟨ehi, elo⟩ := hexval_of_checksum _ hlo hc
  exact ⟨(payloadLenOk_iff p).mpr ⟨h1, h2⟩, hi, lo, hf, hhi, hlo, ehi, elo⟩

/-- R83: with HEX_LOWER_OK false a frame decoded is the frame of its payload. -/
theorem frameOf_of_decodeFrame {f p : Bytes} (h : decodeFrame false f = .ok p) : frameOf p = f := by
  obtain ⟨_, hi, lo, hf, hhi, hlo, ehi, elo⟩ := frame_of_decodeFrame h
  obtain ⟨uhi, ulo, _⟩ := hex_digits_read_back false (xorfold p)
  rw [hf, frameOf, hexval_inj uhi hhi ehi, hexval_inj ulo hlo elo]

/-- Settles O27, port by port. -/
theorem decodedInstructionsAreWellFormed : Obligations.DecodedInstructionsAreWellFormed := by
  intro port lower bs rest i h
  cases port with
  | host =>
    obtain ⟨rfl, w, opd, rfl, hd⟩ := decode_host_eq_ok_iff.mp h
    obtain ⟨hport, _⟩ := encode_of_decodeOp hd
    refine ⟨wf_of_port_host hport, hport, fun _ => ⟨rfl, ?_⟩, nofun, nofun⟩
    rintro w opd ⟨⟩ ha
    exact encode_eq_of_decodeOp hd ((opEmpty_iff_toNat w).trans ha)
  | unit =>
    obtain ⟨u, hc, rfl⟩ := decode_unit_eq_ok_iff.mp h
    obtain ⟨hbs, hline⟩ := (cutUnit_eq_some_iff _ _ _).mp hc
    exact ⟨(wf_toInstr_iff u).mpr hline, port_toInstr u, nofun, fun _ => by rw [encode_toInstr, hbs], nofun⟩
  | frame =>
    obtain ⟨rfl, p, hd, rfl⟩ := decode_frame_eq_ok_iff.mp h
    obtain ⟨hlen, hi, lo, hf, _, _, ehi, elo⟩ := frame_of_decodeFrame hd
    refine ⟨hlen, rfl, nofun, nofun, fun _ => ⟨rfl, ?_, p, hi, lo, _, _, rfl, hf, rfl, ehi, elo⟩⟩
    rintro rfl
    exact frameOf_of_decodeFrame hd

/-- Settles O28: the eight words, each decoded as written. -/
theorem writtenOutWordsDecode : Obligations.WrittenOutWordsDecode := by
  unfold Obligations.WrittenOutWordsDecode
  decide

/-! ### The first byte of a unit -/

/-- R85: a byte that is neither a control byte nor LF begins a line that goes up to the first LF. -/
theorem cutUnit_line {b : Byte} {body : Bytes} (rest : Bytes) (hr : b ≠ Config.ready) (hd : b ≠ Config.done)
    (hb : Config.lf ∉ b :: body) :
    cutUnit (b :: (body ++ Config.lf :: rest)) = some (.line (b :: (body ++ [Config.lf])), rest) := by
  refine (cutUnit_eq_some_iff _ _ _).mpr ⟨by simp [RxUnit.bytes], ?_⟩
  rintro _ ⟨⟩
  exact (lineOk_iff _).mpr ⟨b :: body, rfl, hb, by simpa using hr, by simpa using hd⟩

/-- Settles O29. -/
theorem firstByteDecidesTheUnit : Obligations.FirstByteDecidesTheUnit := by
  intro bs
  refine ⟨(cutUnit_eq_some_iff _ _ _).mpr ⟨rfl, nofun⟩, (cutUnit_eq_some_iff _ _ _).mpr ⟨rfl, nofun⟩, ?_, ?_⟩
  · refine (cutUnit_eq_some_iff _ _ _).mpr ⟨rfl, ?_⟩
    rintro _ ⟨⟩
    decide
  · intro b0 hr hd hlf
    constructor
    · rintro body rest hbody rfl
      exact cutUnit_line rest hr hd (by simp [hbody, hlf.symm])
    · intro hbs
      exact (cutUnit_eq_none_iff _).mpr ⟨by simpa using hr, by simpa using hd, by simp [hbs, hlf.symm]⟩

end Sys2Proof
end

section
/-! PROOFS. Reserved words, and the words of the table as the next step runs them. -/

namespace Sys2Proof

/-! ### Reserved words by number -/

/-- R89: the reserved words, read off the number of the word. -/
theorem reservedWord_iff_toNat (w : Byte) : reservedWord w ↔
    w.toNat % 16 = 0 ∨ w.toNat % 16 = 5 ∨ w.toNat % 16 = 6 ∨ w.toNat % 16 = 7 ∨ 0xB ≤ w.toNat % 16
      ∨ w.toNat / 32 % 4 ≠ 0 ∨ (w.toNat / 16 % 2 = 1 ∧ w.toNat % 16 ≠ 9 ∧ w.toNat % 16 ≠ 0xA)
      ∨ (w.toNat % 16 = 3 ∧ w.toNat / 128 = 0) := by
  have hempty : opEmpty w = false ↔ w.toNat / 128 = 0 := by
    have := w.isLt
    rw [← Bool.not_eq_true, opEmpty_iff_toNat]
    omega
  simp only [reservedWord, ne_eq, ← BitVec.toNat_inj, List.mem_cons, List.not_mem_nil, or_false, opReserved_toNat,
    opOpc_toNat, opGen_iff_toNat, hempty, BitVec.toNat_ofNat, Nat.reduceMod, Nat.reducePow]
  omega

/-! ### Table words -/

/-- Log 15: at which port a byte sequence is found to be an instruction. -/
theorem decodeAny_cases {bs : Bytes} {port : Port} {i : Instr} (h : decodeAny bs = some (port, i)) :
    (port = .host ∧ ∃ rest, decode .host false (hostBytes bs) = .ok (i, rest))
      ∨ (port = .frame ∧ ∃ rest, decode .frame false bs = .ok (i, rest))
      ∨ (port = .unit ∧ decode .unit false bs = .ok (i, [])) := by
  unfold decodeAny at h
  split at h
  · rename_i hd
    cases h
    exact .inl ⟨rfl, _, hd⟩
  split at h
  · rename_i hd
    cases h
    exact .inr (.inl ⟨rfl, _, hd⟩)
  split at h <;> cases h
  rename_i hd
  exact .inr (.inr ⟨rfl, hd⟩)

theorem decodeTableWord_eq_some {nbits w : Nat} {i : Instr} (h : decodeTableWord nbits w = some i) :
    ∃ port, decodeAny (bytesOfNat ((nbits + 7) / 8) w) = some (port, i) := by
  unfold decodeTableWord at h
  split at h <;> cases h
  rename_i hd
  exact ⟨_, hd⟩

/-- R9: HEX_LOWER_OK true only accepts more digits. -/
theorem ishex_of_upper (lower : Bool) {b : Byte} (h : ishex false b = true) : ishex lower b = true := by
  simp only [ishex, Bool.false_and, Bool.or_false] at h
  simp [ishex, h]

/-- R114: what decodes with HEX_LOWER_OK false decodes with either value. -/
theorem decodeFrame_of_upper (lower : Bool) {f p : Bytes} (h : decodeFrame false f = .ok p) :
    decodeFrame lower f = .ok p := by
  obtain ⟨hi, lo, hf, h1, h2, hhi, hlo, hc⟩ := (decodeFrame_eq_ok_iff _ _ _).mp h
  exact (decodeFrame_eq_ok_iff _ _ _).mpr ⟨hi, lo, hf, h1, h2, ishex_of_upper lower hhi, ishex_of_upper lower hlo, hc⟩

end Sys2Proof

namespace Sys2Proof.Machine

variable {s : State}

/-! ### A reserved word -/

theorem step_of_reserved {c : Command} {cs : List Command} (hb : s.busy = false) (hh : s.host = c :: cs)
    (hw : reservedWord c.word) : step s = .next (illegalOp s) := by
  obtain ⟨e, hd, he⟩ := decodeOp_of_reserved hw c.opd
  simp [step, hb, idleStep, hh, decodeCommand, hd, he]

/-- R89, R199, R200: what the completion of a reserved word leaves. -/
theorem illegalOp_eq {c : Command} {cs : List Command} (hb : s.busy = false) (hh : s.host = c :: cs) :
    illegalOp s = { s with
      seq := .idle, res := [], items := [], errtext := [], doneF := true, err := true
      resultPresent := false, ukind := false, kind := .illegalOp, host := cs } := by
  rw [illegalOp, complete_of_error (by decide), cutErrtext_nil]
  simp [dropCommand, hb, hh]

/-- R88: with EMPTY = 1, or with a byte on the operand stream, the operand is there. -/
theorem operandOf_of_present {w : Byte} {opd : Bytes} (h : opd ≠ [] ∨ opEmpty w = true) :
    ∃ p, operandOf w opd = .ok p := by
  obtain ⟨_, ho⟩ | ⟨_, _, ho⟩ | ⟨he, hn, _⟩ := operandOf_cases w opd
  · exact ⟨_, ho⟩
  · exact ⟨_, ho⟩
  · simp [he, hn] at h

/-- Settles O21: the word's number says which of the two it is. -/
theorem reservedWordCompletesWithIllegalOp : Obligations.ReservedWordCompletesWithIllegalOp := by
  intro s c cs hb hh opc gen reserved
  have hres : reservedWord c.word ↔ reserved := reservedWord_iff_toNat c.word
  constructor
  · intro hr
    rw [step_of_reserved hb hh (hres.mpr hr), illegalOp_eq hb hh]
  · intro hr hopd
    rw [← opEmpty_iff_toNat] at hopd
    obtain ⟨p, hp⟩ := operandOf_of_present hopd
    obtain ⟨i, hd⟩ := decodeOp_of_not_reserved (mt hres.mp hr) hp
    exact ⟨i, hd, step_of_command hb hh hd⟩

/-! ### Where withFetchWord lays a table word -/

section
variable {nbits w : Nat} {i : Instr} {bs : Bytes}

/-- Log 15: an operation word is the next command of an idle block. -/
theorem withFetchWord_host (s : State) {b : Byte} {opd : Bytes} (hbs : bytesOfNat ((nbits + 7) / 8) w = bs)
    (h : decodeAny bs = some (.host, i)) (hw : hostBytes bs = b :: opd) :
    s.withFetchWord nbits w = { s with busy := false, seq := .idle, host := ⟨b, opd, s.gsel⟩ :: s.host } := by
  simp [State.withFetchWord, hbs, h, hw]

/-- Log 15: a frame is the line kept in DEC. -/
theorem withFetchWord_frame (s : State) (hbs : bytesOfNat ((nbits + 7) / 8) w = bs)
    (h : decodeAny bs = some (.frame, i)) :
    s.withFetchWord nbits w = { s with busy := true, seq := .dec, line := bs } := by
  simp [State.withFetchWord, hbs, h]

/-- Log 15: a unit is at the head of RXBUF, in WAIT_READY unless the block reads one already. -/
theorem withFetchWord_unit (s : State) (hbs : bytesOfNat ((nbits + 7) / 8) w = bs)
    (h : decodeAny bs = some (.unit, i)) :
    s.withFetchWord nbits w = if s.readsUnit then { s with rxbuf := bs ++ s.rxbuf }
      else { s with busy := true, seq := .waitReady, rxbuf := bs ++ s.rxbuf } := by
  simp [State.withFetchWord, hbs, h]

theorem readsUnit_withFetchWord (s : State) (hbs : bytesOfNat ((nbits + 7) / 8) w = bs)
    (h : decodeAny bs = some (.unit, i)) :
    (s.withFetchWord nbits w).readsUnit = true ∧ (s.withFetchWord nbits w).rxbuf = bs ++ s.rxbuf := by
  rw [withFetchWord_unit s hbs h]
  split
  · rename_i hr
    exact ⟨hr, rfl⟩
  · exact ⟨rfl, rfl⟩

end

/-- R132: a block that reads a unit and holds one whole runs it, with no read. -/
theorem step_of_unit_in_rxbuf {u : RxUnit} {left : Bytes} (hr : s.readsUnit = true)
    (hc : cutUnit s.rxbuf = some (u, left)) : step s = exec u.toInstr s := by
  rw [step_of_readsUnit hr]
  exact readRow_of_found (fetchUnit_found_now s.rx s u left hc)

/-- Settles O20, by the port at which the word decodes. -/
theorem fetchWordRunsTheInstruction : Obligations.FetchWordRunsTheInstruction := by
  intro s nbits w i h
  obtain ⟨port, hany⟩ := decodeTableWord_eq_some h
  obtain ⟨rfl, rest, hd⟩ | ⟨rfl, rest, hd⟩ | ⟨rfl, hd⟩ := decodeAny_cases hany
  · obtain ⟨_, b, opd, hbytes, hop⟩ := decode_host_eq_ok_iff.mp hd
    rw [withFetchWord_host s rfl hany hbytes]
    exact step_of_command rfl rfl hop
  · obtain ⟨_, p, hp, rfl⟩ := decode_frame_eq_ok_iff.mp hd
    rw [withFetchWord_frame s rfl hany, step_dec rfl rfl]
    exact decRow_of_frame (decodeFrame_of_upper _ hp)
  · obtain ⟨u, hc, rfl⟩ := decode_unit_eq_ok_iff.mp hd
    obtain ⟨hreads, hrx⟩ := readsUnit_withFetchWord s rfl hany
    have hcut := cutUnit_append _ _ s.rxbuf u hc
    rw [← hrx] at hcut
    exact step_of_unit_in_rxbuf hreads hcut

end Sys2Proof.Machine
end

section
/-! PROOFS. The frame codec: the laws of the checksum, what a sequence in the frame layout decodes to, the flips of one bit, and
the operations ENCODE and DECODE from idle. -/

namespace Sys2Proof

/-! ### The checksum -/

@[simp] theorem xorfold_nil : xorfold [] = 0x00#8 := rfl

@[simp] theorem xorfold_cons (b : Byte) (s : Bytes) : xorfold (b :: s) = b ^^^ xorfold s := rfl

theorem xorfold_append (s t : Bytes) : xorfold (s ++ t) = xorfold s ^^^ xorfold t := by
  induction s with
  | nil => simp
  | cons b s ih => rw [List.cons_append, xorfold_cons, ih, xorfold_cons, BitVec.xor_assoc]

theorem xorfold_perm {s t : Bytes} (h : s.Perm t) : xorfold s = xorfold t := by
  induction h with
  | nil => rfl
  | cons b _ ih => rw [xorfold_cons, ih, xorfold_cons]
  | swap b c s => simp only [xorfold_cons]; ac_rfl
  | trans _ _ ih ih' => exact ih.trans ih'

/-- R111 (c): a byte counts the same wherever it stands. -/
theorem xorfold_middle (s t : Bytes) (b : Byte) : xorfold (s ++ b :: t) = b ^^^ xorfold (s ++ t) :=
  xorfold_perm List.perm_middle

/-- R111 (e): a changed byte changes the checksum by the exclusive or of the old byte and the new. -/
theorem xorfold_change (s t : Bytes) (b b' : Byte) :
    xorfold (s ++ b' :: t) = xorfold (s ++ b :: t) ^^^ (b ^^^ b') := by
  rw [xorfold_middle, xorfold_middle]
  calc b' ^^^ xorfold (s ++ t) = (b ^^^ b) ^^^ (b' ^^^ xorfold (s ++ t)) := by simp
    _ = b ^^^ xorfold (s ++ t) ^^^ (b ^^^ b') := by ac_rfl

theorem xorfold_change_ne (s t : Bytes) {b b' : Byte} (h : b' ≠ b) :
    xorfold (s ++ b' :: t) ≠ xorfold (s ++ b :: t) := by
  rw [xorfold_middle, xorfold_middle]
  exact fun e => h ((BitVec.xor_left_inj _).mp e)

theorem xorfold_set_ne {s : Bytes} {i : Nat} {b : Byte} (hi : i < s.length) (hb : b ≠ s[i]) :
    xorfold (s.set i b) ≠ xorfold s := by
  have hs : s.take i ++ s[i] :: s.drop (i + 1) = s := by simp
  have h := xorfold_change_ne (s.take i) (s.drop (i + 1)) hb
  rwa [hs, ← List.set_eq_take_append_cons_drop.trans (if_pos hi)] at h

/-- R111 (f): bytes of seven bits have a checksum of seven bits. -/
theorem xorfold_lt {s : Bytes} (h : ∀ b ∈ s, b < 0x80#8) : xorfold s < 0x80#8 := by
  induction s with
  | nil => decide
  | cons b s ih =>
    obtain ⟨hb, hs⟩ := List.forall_mem_cons.mp h
    have hfold := ih hs
    rw [BitVec.lt_def] at hb hfold ⊢
    exact Nat.xor_lt_two_pow (n := 7) hb hfold

/-- Settles O30: each law is a lemma above, by induction over the sequence or the permutation. -/
theorem checksumLaws : Obligations.ChecksumLaws :=
  ⟨rfl, fun b => by simp, xorfold_append, fun _ _ h => xorfold_perm h, fun b => by simp,
    fun s t b b' => ⟨xorfold_change s t b b', fun h => ⟨fun e => h (BitVec.xor_eq_zero_iff.mp e).symm,
      xorfold_change_ne s t h⟩⟩, fun _ h => xorfold_lt h⟩

/-! ### The frame layout -/

/-- R114: what a byte sequence in seven parts decodes to: its middle part, when the four fixed bytes, the length, the digits
and the checksum are right. -/
theorem decodeFrame_parts_iff {lower : Bool} {a b c d h l : Byte} {p q : Bytes} :
    decodeFrame lower (a :: (p ++ [b, h, l, c, d])) = .ok q ↔
      q = p ∧ (a = Config.sof ∧ b = Config.sep ∧ c = Config.cr ∧ d = Config.lf) ∧ payloadLenOk p = true
        ∧ ishex lower h = true ∧ ishex lower l = true ∧ (xorfold p).toNat = 16 * hexval h + hexval l := by
  simp only [decodeFrame_eq_ok_iff, payloadLenOk_iff]
  constructor
  · rintro ⟨h', l', hf, h1, h2, hh, hl, hc⟩
    obtain ⟨rfl, hrest⟩ := List.cons.inj hf
    obtain ⟨rfl, ht⟩ := List.append_inj' hrest rfl
    cases ht
    exact ⟨rfl, ⟨rfl, rfl, rfl, rfl⟩, ⟨h1, h2⟩, hh, hl, hc⟩
  · rintro ⟨rfl, ⟨rfl, rfl, rfl, rfl⟩, ⟨h1, h2⟩, hh, hl, hc⟩
    exact ⟨h, l, rfl, h1, h2, hh, hl, hc⟩

/-- Settles O33: the length and the checksum of the payload do not see its order. -/
theorem permutedPayloadStillDecodes : Obligations.PermutedPayloadStillDecodes := by
  intro lower p q h l hperm hd
  obtain ⟨-, fixed, hlen, digits⟩ := decodeFrame_parts_iff.mp hd
  rw [payloadLenOk, hperm.length_eq, ← payloadLenOk] at hlen
  rw [xorfold_perm hperm] at digits
  exact decodeFrame_parts_iff.mpr ⟨rfl, fixed, hlen, digits⟩

/-! ### The round trip -/

theorem payloadLenOk_of_encodePayload {p f : Bytes} (h : encodePayload p = some f) : payloadLenOk p = true := by
  obtain ⟨h1, h2, -⟩ := (encodePayload_eq_some_iff p f).mp h
  exact (payloadLenOk_iff p).mpr ⟨h1, h2⟩

theorem encodePayload_of_printable {p : Bytes} (hlen : payloadLenOk p = true) (hp : ∀ b ∈ p, printable b = true) :
    encodePayload p = some (frameOf p) := by
  obtain ⟨h1, h2⟩ := (payloadLenOk_iff p).mp hlen
  exact (encodePayload_eq_some_iff _ _).mpr ⟨h1, h2, fun b hb => (printable_iff b).mp (hp b hb), rfl⟩

/-- Settles O31. Where the converse fails: the payload 0x13 decodes but is not printable; `$K*4b` decodes with HEX_LOWER_OK
but Encode writes `$K*4B`. -/
theorem codecRoundTrip : Obligations.CodecRoundTrip := by
  refine ⟨fun p hv => ⟨_, Machine.encodePayload_of_valid hv⟩, fun lower p f he => ?_, fun p f hd hp => ?_,
    ⟨[0x13#8], frameOf [0x13#8], by decide, by decide⟩,
    ⟨[0x4B#8], [0x24#8, 0x4B#8, 0x2A#8, 0x34#8, 0x62#8, 0x0D#8, 0x0A#8], frameOf [0x4B#8], by decide, by decide,
      by decide⟩⟩
  · have hlen := payloadLenOk_of_encodePayload he
    obtain ⟨-, -, -, rfl⟩ := (encodePayload_eq_some_iff p f).mp he
    exact decodeFrame_frameOf lower hlen
  · obtain ⟨hlen, -⟩ := frame_of_decodeFrame hd
    rw [encodePayload_of_printable hlen hp, frameOf_of_decodeFrame hd]

/-! ### One flipped bit -/

/-- A byte with one bit flipped. -/
def flipByte (b : Byte) (j : Nat) : Byte :=
  b ^^^ (1#8 <<< j)

/-- A byte sequence with one bit of the byte at a position flipped. -/
def flipBit (f : Bytes) (i j : Nat) : Bytes :=
  f.set i (flipByte (f.getD i 0x00#8) j)

@[simp] theorem flipBit_cons_zero (b : Byte) (f : Bytes) (j : Nat) : flipBit (b :: f) 0 j = flipByte b j :: f := rfl

@[simp] theorem flipBit_cons_succ (b : Byte) (f : Bytes) (i j : Nat) :
    flipBit (b :: f) (i + 1) j = b :: flipBit f i j := rfl

theorem flipBit_append_left {s : Bytes} {i : Nat} (hi : i < s.length) (t : Bytes) (j : Nat) :
    flipBit (s ++ t) i j = flipBit s i j ++ t := by
  rw [flipBit, List.getD_append _ _ _ _ hi, List.set_append_left _ _ hi, flipBit]

theorem flipBit_append_right (s t : Bytes) (i j : Nat) : flipBit (s ++ t) (s.length + i) j = s ++ flipBit t i j := by
  rw [flipBit, List.getD_append_right _ _ _ _ (by simp), List.set_append_right _ _ (by simp), Nat.add_sub_cancel_left,
    flipBit]

theorem flipByte_ne {j : Nat} (hj : j < 8) (b : Byte) : flipByte b j ≠ b := by
  have hbit : ∀ k : Fin 8, 1#8 <<< k.val ≠ 0#8 := by decide
  exact fun h => hbit ⟨j, hj⟩ ((BitVec.xor_right_inj b).mp (h.trans (BitVec.xor_zero (x := b)).symm))

theorem xorfold_flipBit_ne {p : Bytes} {i j : Nat} (hi : i < p.length) (hj : j < 8) :
    xorfold (flipBit p i j) ≠ xorfold p := by
  rw [flipBit, List.getD_eq_getElem _ _ hi]
  exact xorfold_set_ne hi (flipByte_ne hj _)

/-- R117: a digit with one bit flipped is a digit of the same value only where the bit is the one between upper and lower
case, the digit a letter, and both cases are read. -/
theorem flipByte_same_digit_iff {lower : Bool} {b : Byte} {j : Nat} (hj : j < 8) (hb : ishex lower b = true) :
    (ishex lower (flipByte b j) = true ∧ hexval b = hexval (flipByte b j)) ↔ lower = true ∧ j = 5 ∧ 10 ≤ hexval b := by
  have h : ∀ (lower : Bool) (b : Byte) (k : Fin 8), ishex lower b = true →
      ((ishex lower (flipByte b k) = true ∧ hexval b = hexval (flipByte b k))
        ↔ lower = true ∧ k.val = 5 ∧ 10 ≤ hexval b) := by decide
  exact h lower b ⟨j, hj⟩ hb

/-- R117: the flips that are not detected. -/
def flipSurvives (lower : Bool) (f : Bytes) (i j : Nat) : Prop :=
  lower = true ∧ j = 5 ∧ (i = f.length - 4 ∨ i = f.length - 3) ∧ 10 ≤ hexval (f.getD i 0x00#8)

theorem flipSurvives_parts_iff {lower : Bool} {a b c d h l : Byte} {p : Bytes} {i j : Nat} :
    flipSurvives lower (a :: (p ++ [b, h, l, c, d])) i j ↔
      lower = true ∧ j = 5 ∧ (i = p.length + 2 ∧ 10 ≤ hexval h ∨ i = p.length + 3 ∧ 10 ≤ hexval l) := by
  have hlen : (a :: (p ++ [b, h, l, c, d])).length = p.length + 6 := by simp
  have hget (k : Nat) :
      (a :: (p ++ [b, h, l, c, d])).getD (p.length + (k + 1)) 0x00#8 = [b, h, l, c, d].getD k 0x00#8 := by
    rw [← Nat.add_assoc, List.getD_cons_succ, List.getD_append_right _ _ _ _ (by simp), Nat.add_sub_cancel_left]
  rw [flipSurvives, hlen, Nat.add_sub_assoc (by decide), Nat.add_sub_assoc (by decide), or_and_right]
  refine and_congr_right' (and_congr_right' (or_congr (and_congr_right ?_) (and_congr_right ?_)))
  · rintro rfl
    exact iff_of_eq (congrArg _ (congrArg hexval (hget 1)))
  · rintro rfl
    exact iff_of_eq (congrArg _ (congrArg hexval (hget 2)))

/-- R117: what a frame with one bit flipped decodes to, part by part: a fixed byte is wrong, the payload no longer has the
checksum, or a digit must keep its value. -/
theorem decodeFrame_flipBit_iff {lower : Bool} {f p q : Bytes} {i j : Nat} (hd : decodeFrame lower f = .ok p)
    (hi : i < f.length) (hj : j < 8) :
    decodeFrame lower (flipBit f i j) = .ok q ↔ q = p ∧ flipSurvives lower f i j := by
  obtain ⟨h, l, rfl, -⟩ := (decodeFrame_eq_ok_iff _ _ _).mp hd
  obtain ⟨-, -, hlen, hh, hl, hc⟩ := decodeFrame_parts_iff.mp hd
  rw [flipSurvives_parts_iff]
  have fixed (b : Byte) : flipByte b j ≠ b := flipByte_ne hj b
  cases i with
  | zero => simp [decodeFrame_parts_iff, fixed]
  | succ i =>
    rw [flipBit_cons_succ]
    obtain hp | hp := lt_or_ge i p.length
    · -- The payload: the digits are those of the checksum before the flip.
      rw [flipBit_append_left hp, decodeFrame_parts_iff]
      constructor
      · rintro ⟨-, -, -, -, -, hc'⟩
        exact absurd (BitVec.eq_of_toNat_eq (hc'.trans hc.symm)) (xorfold_flipBit_ne hp hj)
      · rintro ⟨-, -, -, ⟨hi', -⟩ | ⟨hi', -⟩⟩ <;> omega
    · -- The last five bytes: SEP, the two digits, CR, LF.
      obtain ⟨m, rfl⟩ := Nat.exists_eq_add_of_le hp
      rw [flipBit_append_right]
      simp only [List.length_cons, List.length_append, List.length_nil] at hi
      have hm : m < 5 := by omega
      match m, hm with
      | 0, _ | 3, _ | 4, _ => simp [decodeFrame_parts_iff, fixed]
      | 1, _ => simp [decodeFrame_parts_iff, hlen, hl, hc, Nat.add_assoc, flipByte_same_digit_iff hj hh]
      | 2, _ => simp [decodeFrame_parts_iff, hlen, hh, hc, Nat.add_assoc, flipByte_same_digit_iff hj hl]

/-- Settles O32: what the flipped frame decodes to, read in both directions. -/
theorem singleBitFlipsAreDetected : Obligations.SingleBitFlipsAreDetected := by
  intro lower f p i j hd hi hj
  constructor
  · rintro ⟨q, hq⟩
    exact ((decodeFrame_flipBit_iff hd hi hj).mp hq).2
  · intro hs
    exact (decodeFrame_flipBit_iff hd hi hj).mpr ⟨rfl, hs⟩

end Sys2Proof

namespace Sys2Proof.Machine

variable {s : State}

/-! ### ENCODE and DECODE from idle -/

/-- R112, R114: ENCODE and DECODE are accepted and run in the same step. -/
theorem exec_encode_of_idle (hb : s.busy = false) (p : Bytes) :
    exec (.encode p) s = .next (runEncode (acceptStandalone .encode p s)) :=
  exec_standalone (.inl ⟨rfl, rfl⟩) hb

theorem exec_decode_of_idle (hb : s.busy = false) (f : Bytes) :
    exec (.decode f) s = .next (runDecode (acceptStandalone .decode f s)) :=
  exec_standalone (.inr (.inl ⟨rfl, rfl⟩)) hb

/-- Settles O3: acceptance, then Encode on either side of validity. -/
theorem encodeOperation : Obligations.EncodeOperation := by
  intro s p hb
  rw [exec_encode_of_idle hb]
  constructor
  · intro hv
    rw [runEncode_of_valid hv, deliver, complete_of_ok, acceptStandalone_eq, hb]
    rfl
  · intro hv
    rw [runEncode_of_invalid hv, complete_of_error (by decide), acceptStandalone_eq, hb]
    exact ⟨s.csum, rfl⟩

/-- Settles O4: acceptance, then Decode of a frame or of anything else. -/
theorem decodeOperation : Obligations.DecodeOperation := by
  intro s f hb
  rw [exec_decode_of_idle hb]
  constructor
  · intro p h l hf h1 h2 hh hl hc
    have hd : decodeFrame s.params.hexLowerOk f = .ok p :=
      (decodeFrame_eq_ok_iff _ _ _).mpr ⟨h, l, hf, h1, h2, hh, hl, hc⟩
    rw [runDecode_of_frame hd, deliver, complete_of_ok, acceptStandalone_eq, hb]
  · intro hno
    have hd : ∀ p, decodeFrame s.params.hexLowerOk f ≠ .ok p :=
      fun p hp => hno ⟨p, (decodeFrame_eq_ok_iff _ _ _).mp hp⟩
    obtain ⟨c, n, hrun⟩ := runDecode_of_no_frame (s := acceptStandalone .decode f s) hd
    rw [hrun, complete_of_error (by decide), acceptStandalone_eq, hb]
    exact ⟨c, n, rfl⟩

end Sys2Proof.Machine
end

section
/-! PROOFS. The Line Reader: what a unit means in each state of SEQ, what one ReadUnit comes to on a script of chunks, and the
operations READ_UNIT and WRITE_UNIT from idle. -/

namespace Sys2Proof.Machine

variable {s t : State}

/-! ### What a unit means -/

/-- R132, R200: what completion with a result in RES leaves. -/
theorem deliver_eq (r : Bytes) (isLine : Bool) (s : State) : deliver r isLine s = { s with
    res := r, ukind := isLine, resultPresent := true, errtext := [], kind := .ok, err := false, doneF := true
    busy := false, seq := .idle } := by
  rw [deliver, complete_of_ok]

/-- R132: a READ_UNIT in EXEC returns the unit, whichever it is. -/
theorem exec_unit_of_readUnit (u : RxUnit) (hs : s.seq = .exec) (hop : s.sop = .readUnit) :
    exec u.toInstr s = .next (deliver u.bytes u.isLine (dropRx u.bytes.length s)) := by
  cases u <;> simp [RxUnit.toInstr, exec, execCtlReady, execCtlDone, execLine, hs, hop, RxUnit.bytes, RxUnit.isLine]

/-- R154, R156: anything but READY in WAIT_READY, and READY in READ, is a ProtocolError with the unit as text. -/
theorem exec_unexpected_unit (u : RxUnit) (h : s.seq = .waitReady ∧ u ≠ .ready ∨ s.seq = .read ∧ u = .ready) :
    exec u.toInstr s = .next (raise .protocolError u.bytes (dropRx u.bytes.length s)) := by
  obtain ⟨hs, hu⟩ | ⟨hs, rfl⟩ := h
  · cases u with
    | ready => exact absurd rfl hu
    | done => simp [RxUnit.toInstr, exec, execCtlDone, hs, RxUnit.bytes]
    | line l => simp [RxUnit.toInstr, exec, execLine, hs, RxUnit.bytes]
  · simp [RxUnit.toInstr, exec, execCtlReady, hs, RxUnit.bytes]

/-- Log 14: a unit given where none is being read changes nothing. -/
theorem exec_unit_elsewhere (u : RxUnit) (hw : s.seq ≠ .waitReady) (hr : s.seq ≠ .read)
    (hx : ¬ (s.seq = .exec ∧ s.sop = .readUnit)) : exec u.toInstr s = .next s := by
  cases hs : s.seq with
  | waitReady => exact absurd hs hw
  | read => exact absurd hs hr
  | exec =>
    have hop : s.sop ≠ .readUnit := fun h => hx ⟨hs, h⟩
    cases u <;> simp [RxUnit.toInstr, exec, execCtlReady, execCtlDone, execLine, hs, hop]
  | idle | enc | tx | dec | matchRec | yield | flush =>
    cases u <;> simp [RxUnit.toInstr, exec, execCtlReady, execCtlDone, execLine, hs]

/-- Settles O10: READY starts the answer in WAIT_READY; the other three cases are those of every unit. -/
theorem readyUnitMeaning : Obligations.ReadyUnitMeaning := by
  refine fun s => ⟨fun hs => ?_, fun hs => exec_unexpected_unit .ready (.inr ⟨hs, rfl⟩), fun hs hop => ?_,
    exec_unit_elsewhere .ready⟩
  · simp [exec, execCtlReady, hs, dropRx]
  · exact (exec_unit_of_readUnit .ready hs hop).trans (by rw [deliver_eq]; rfl)

/-- R155, R164: DONE in READ ends the exchange without error. -/
theorem exec_ctlDone_of_read (hs : s.seq = .read) :
    exec .ctlDone s = .next (complete .ok [] { dropRx 1 s with resultPresent := exchangeResultPresent s }) := by
  simp [exec, execCtlDone, hs]

/-- Settles O11: DONE ends the exchange in READ; the other three cases are those of every unit. -/
theorem doneUnitMeaning : Obligations.DoneUnitMeaning := by
  refine fun s => ⟨fun hs => ?_, fun hs => exec_unexpected_unit .done (.inl ⟨hs, by simp⟩), fun hs hop => ?_,
    exec_unit_elsewhere .done⟩
  · rw [exec_ctlDone_of_read hs, complete_of_ok, exchangeResultPresent, ← Bool.decide_and]
    rfl
  · exact (exec_unit_of_readUnit .done hs hop).trans (by rw [deliver_eq]; rfl)

/-- Settles O12: a line is kept in READ; the other three cases are those of every unit. -/
theorem lineUnitMeaning : Obligations.LineUnitMeaning := by
  refine fun s l => ⟨fun hs => ?_, fun hs => exec_unexpected_unit (.line l) (.inl ⟨hs, by simp⟩), fun hs hop => ?_,
    exec_unit_elsewhere (.line l)⟩
  · simp [exec, execLine, hs, dropRx]
  · exact (exec_unit_of_readUnit (.line l) hs hop).trans (by rw [deliver_eq]; rfl)

/-! ### A read that fails -/

/-- The state after ReadUnit has taken these chunks and then an answer that brings no bytes. -/
def afterFailure (s : State) (cs : List (Byte × Bytes)) (a : ReadAnswer) (rest : List ReadAnswer) : State :=
  { s with rxbuf := s.rxbuf ++ chunkBytes cs, rx := rest, hist := s.hist ++ (dataAnswers cs ++ [a]).map Event.read }

theorem afterFailure_eq (s : State) (cs : List (Byte × Bytes)) (a : ReadAnswer) (rest : List ReadAnswer) :
    afterFailure s cs a rest = { afterFills s cs rest with hist := (afterFills s cs rest).hist ++ [.read a] } := by
  simp [afterFailure, afterFills]

/-- R134, R204: a READ_UNIT completes with the kind of the failed read. -/
theorem readFailed_of_exec (k : Kind) (hs : s.seq = .exec) : readFailed k s = complete k [] s := by
  simp [readFailed, hs]

/-- R165: an exchange raises the kind of the failed read. -/
theorem readFailed_of_exchange (k : Kind) (hs : s.seq = .waitReady ∨ s.seq = .read) : readFailed k s = raise k [] s := by
  obtain hs | hs := hs <;> simp [readFailed, hs]

/-- R131: a failed read ends in an error and its answer brings no byte. -/
theorem kind_of_failed_read {a : ReadAnswer} {k : Kind}
    (h : a = .timeout ∧ k = .timeoutError ∨ a = .eos ∧ k = .readError) :
    k ≠ .ok ∧ eventTaken (.read a) = [] := by
  obtain ⟨rfl, rfl⟩ | ⟨rfl, rfl⟩ := h <;> simp [eventTaken]

/-- R131, R134: one ReadUnit that is answered Timeout or Eos while no unit is whole: every byte received is kept. -/
theorem readRow_of_failed_read {cs : List (Byte × Bytes)} {a : ReadAnswer} {rest : List ReadAnswer} {k : Kind}
    (hrx : s.rx = dataAnswers cs ++ a :: rest) (hfit : rxbufFits s.params (s.rxbuf ++ chunkBytes cs).length = true)
    (hc : cutUnit (s.rxbuf ++ chunkBytes cs) = none) (hk : a = .timeout ∧ k = .timeoutError ∨ a = .eos ∧ k = .readError) :
    readRow s = .next (readFailed k (afterFailure s cs a rest)) := by
  have hbuf : cutUnit (afterFills s cs s.rx).rxbuf = none := hc
  have hfill : fill a (afterFills s cs s.rx) = .failed k (record (.read a) (afterFills s cs s.rx)) := by
    obtain ⟨rfl, rfl⟩ | ⟨rfl, rfl⟩ := hk <;> rfl
  have hfetch : fetchUnit s.rx s = .failed k (afterFailure s cs a rest) := by
    conv_lhs => rw [hrx, fetchUnit_no_unit cs _ s hfit hc]
    simp only [fetchUnit, hbuf, hfill, afterFailure_eq]
    rfl
  rw [readRow, hfetch]

/-- Settles O6: acceptance, then a ReadUnit that fails in EXEC. -/
theorem readUnitFailsWithoutLoss : Obligations.ReadUnitFailsWithoutLoss := by
  intro s cs a rest k hb hrx hfit hc hk
  rw [exec_readUnit_of_idle hb, readRow_of_failed_read (s := acceptStandalone .readUnit [] s) hrx hfit hc hk,
    readFailed_of_exec k rfl, complete_of_error (kind_of_failed_read hk).1, cutErrtext_nil, hb]
  rfl

/-- Settles O15: the row is one ReadUnit, and SEQ says how its failure ends. -/
theorem failedReadRowOfTheSequencer : Obligations.FailedReadRowOfTheSequencer := by
  intro s cs a rest k hb hrx hfit hc hk
  constructor
  · intro hs
    rw [step_of_readsUnit ((readsUnit_iff s).mpr ⟨hb, hs.imp_right .inl⟩), readRow_of_failed_read hrx hfit hc hk,
      readFailed_of_exchange (s := afterFailure s cs a rest) k hs]
    rfl
  · intro hs hop
    rw [step_of_readsUnit ((readsUnit_iff s).mpr ⟨hb, .inr (.inr ⟨hs, hop⟩)⟩), readRow_of_failed_read hrx hfit hc hk,
      readFailed_of_exec (s := afterFailure s cs a rest) k hs, complete_of_error (kind_of_failed_read hk).1, cutErrtext_nil]
    rfl

/-! ### READ_UNIT from idle -/

/-- R132: the unit that ReadUnit finds leaves RXBUF and is the result of READ_UNIT. -/
theorem exec_readUnit_of_found {u : RxUnit} {left : Bytes} {cs : List (Byte × Bytes)} {rest : List ReadAnswer}
    (hb : s.busy = false) (hc : cutUnit (s.rxbuf ++ chunkBytes cs) = some (u, left))
    (hf : fetchUnit s.rx (acceptStandalone .readUnit [] s)
      = .found u (afterFills (acceptStandalone .readUnit [] s) cs rest)) :
    exec .readUnit s = .next (deliver u.bytes u.isLine
      { afterFills (acceptStandalone .readUnit [] s) cs rest with rxbuf := left }) := by
  rw [exec_readUnit_of_idle hb, readRow_of_found (s := acceptStandalone .readUnit [] s) hf,
    exec_unit_of_readUnit u rfl rfl, ← cutUnit_drop _ _ _ hc]
  rfl

/-- Settles O5: ReadUnit stops at the chunk that completes the unit; READ_UNIT returns it. -/
theorem readUnitReturnsTheNextUnit : Obligations.ReadUnitReturnsTheNextUnit := by
  intro s cs rest u left hb hrx hfit hstream hline
  have hc : cutUnit (s.rxbuf ++ chunkBytes cs) = some (u, left) := (cutUnit_eq_some_iff _ _ _).mpr ⟨hstream, hline⟩
  obtain ⟨cs1, cs2, r, hcs, hcut, hleft, hleast, hfetch⟩ :=
    fetchUnit_of_stream cs rest (acceptStandalone .readUnit [] s) u left hfit hc
  rw [← hrx] at hfetch
  refine ⟨cs1, cs2, r, hcs, hleft, hleast, ?_⟩
  rw [exec_readUnit_of_found hb hcut hfetch, deliver_eq, hb]
  rfl

/-- R132, R134: everything READ_UNIT given to an idle block can come to: a unit returned, a failed read, or a wait. -/
theorem exec_readUnit_cases (hb : s.busy = false) (h : exec .readUnit s = .next t) :
    ∃ cs rest, s.rx = dataAnswers cs ++ rest
      ∧ ((∃ u left, cutUnit (s.rxbuf ++ chunkBytes cs) = some (u, left)
          ∧ t = deliver u.bytes u.isLine { afterFills (acceptStandalone .readUnit [] s) cs rest with rxbuf := left })
        ∨ (∃ a k rest', rest = a :: rest' ∧ k ≠ .ok ∧ eventTaken (.read a) = []
          ∧ t = complete k [] (afterFailure (acceptStandalone .readUnit [] s) cs a rest'))
        ∨ (rest = [] ∧ t = afterFills (acceptStandalone .readUnit [] s) cs [])) := by
  obtain ⟨cs, rest, hrx, -, ⟨u, left, hc, hf⟩ | ⟨a, k, rest', hr, -, hk, hf⟩ | ⟨hr, -, hf⟩ | ⟨_, _, _, _, _, _, hf⟩⟩ :=
    fetchUnit_cases s.rx (acceptStandalone .readUnit [] s)
  · rw [exec_readUnit_of_found hb hc hf, Host.Outcome.next.injEq] at h
    exact ⟨cs, rest, hrx, .inl ⟨u, left, hc, h.symm⟩⟩
  all_goals rw [exec_readUnit_of_idle hb, readRow, acceptStandalone_rx, hf] at h
  · rw [Host.Outcome.next.injEq, ← afterFailure_eq, readFailed_of_exec k rfl] at h
    obtain ⟨hk, ha⟩ := kind_of_failed_read hk
    exact ⟨cs, rest, hrx, .inr (.inl ⟨a, k, rest', hr, hk, ha, h.symm⟩)⟩
  · rw [Host.Outcome.next.injEq] at h
    exact ⟨cs, rest, hrx, .inr (.inr ⟨hr, h.symm⟩)⟩
  · cases h

/-! ### What READ_UNIT has returned -/

/-- R132, R133: a READ_UNIT that has completed without error has returned a unit. -/
theorem returns_unit_of_ok (hb : s.busy = false) (h : exec .readUnit s = .next t) (hidle : t.busy = false) (hok : t.kind = .ok) :
    ∃ u : RxUnit, t.res = u.bytes ∧ t.ukind = u.isLine ∧ ∀ l, u = .line l → lineOk l = true := by
  obtain ⟨cs, rest, -, ⟨u, left, hc, rfl⟩ | ⟨a, k, rest', -, hk, -, rfl⟩ | ⟨-, rfl⟩⟩ := exec_readUnit_cases hb h
  · exact ⟨u, by simp, by simp, ((cutUnit_eq_some_iff _ _ _).mp hc).2⟩
  · exact absurd hok (by simpa using hk)
  · exact absurd hidle (by simp [afterFills])

/-- R64: the bytes taken are the unit and then RXBUF, and the script holds the rest; only reads are recorded. -/
theorem readUnit_loses_nothing (hb : s.busy = false) (h : exec .readUnit s = .next t) :
    ∃ as : List ReadAnswer, s.rx = as ++ t.rx ∧ t.hist = s.hist ++ as.map Event.read
      ∧ s.rxbuf ++ scriptBytes as = t.res ++ t.rxbuf := by
  obtain ⟨cs, rest, hrx, ⟨u, left, hc, rfl⟩ | ⟨a, k, rest', rfl, hk, ha, rfl⟩ | ⟨rfl, rfl⟩⟩ := exec_readUnit_cases hb h
  · exact ⟨dataAnswers cs, by simpa [afterFills] using hrx, by simp [afterFills],
      by simpa using ((cutUnit_eq_some_iff _ _ _).mp hc).1⟩
  · have hnone : scriptBytes [a] = [] := by simpa [scriptBytes, rxTaken] using ha
    exact ⟨dataAnswers cs ++ [a], by simpa [afterFailure] using hrx, by simp [afterFailure],
      by simp [afterFailure, hk, hnone]⟩
  · exact ⟨dataAnswers cs, by simpa [afterFills] using hrx, by simp [afterFills], by simp [afterFills]⟩

/-- R132: a unit that already stands whole in RXBUF is returned without a read. -/
theorem exec_readUnit_of_buffered {u : RxUnit} {left : Bytes} (hb : s.busy = false) (hc : cutUnit s.rxbuf = some (u, left)) :
    exec .readUnit s = .next (deliver u.bytes u.isLine
      { afterFills (acceptStandalone .readUnit [] s) [] s.rx with rxbuf := left }) := by
  refine exec_readUnit_of_found hb (by simpa using hc) ?_
  rw [fetchUnit_found_now s.rx (acceptStandalone .readUnit [] s) u left hc]
  simp [afterFills]

/-- Settles O34: what was returned is a unit, and nothing received is lost. -/
theorem returnedUnitProperties : Obligations.ReturnedUnitProperties := by
  intro s t hb h
  refine ⟨fun hidle hok hctl => ?_, fun hidle hok hline => ?_, ?_, fun b body left hbuf hr hd hlf hbody => ?_⟩
  · obtain ⟨u, hres, hu, -⟩ := returns_unit_of_ok hb h hidle hok
    rw [hctl] at hu
    cases u with
    | ready => exact .inl hres
    | done => exact .inr hres
    | line l => cases hu
  · obtain ⟨u, hres, hu, hl⟩ := returns_unit_of_ok hb h hidle hok
    rw [hline] at hu
    cases u with
    | ready => cases hu
    | done => cases hu
    | line l => exact hres ▸ (lineOk_iff l).mp (hl l rfl)
  · obtain ⟨as, hrx, hhist, hbytes⟩ := readUnit_loses_nothing hb h
    exact ⟨as.map Event.read, hhist, hbytes, txStream_reads as, by rw [hrx, scriptBytes_append]; rfl⟩
  · have hc : cutUnit s.rxbuf = some (.line (b :: (body ++ [Config.lf])), left) := by
      rw [hbuf]
      exact cutUnit_line left hr hd (by simp [hbody, Ne.symm hlf])
    rw [exec_readUnit_of_buffered hb hc, Host.Outcome.next.injEq] at h
    subst h
    simp [RxUnit.bytes, RxUnit.isLine]

/-- R132, R137: what the host and the next operation see of a READ_UNIT that returns a unit depends on the bytes of the
stream alone. -/
theorem exec_readUnit_of_stream {cs : List (Byte × Bytes)} {u : RxUnit} {left : Bytes} (rest : List ReadAnswer)
    (hb : s.busy = false) (hfit : rxbufFits s.params (s.rxbuf ++ chunkBytes cs).length = true)
    (hc : cutUnit (s.rxbuf ++ chunkBytes cs) = some (u, left)) :
    ∃ t, exec .readUnit { s with rx := dataAnswers cs ++ rest } = .next t ∧ t.res = u.bytes ∧ t.ukind = u.isLine
      ∧ t.kind = .ok ∧ t.busy = false ∧ t.rxbuf ++ scriptBytes t.rx = left ++ scriptBytes rest := by
  obtain ⟨hstream, hline⟩ := (cutUnit_eq_some_iff _ _ _).mp hc
  obtain ⟨cs1, cs2, r, -, hleft, -, hexec⟩ := readUnitReturnsTheNextUnit { s with rx := dataAnswers cs ++ rest } cs rest u
    left hb rfl hfit hstream hline
  exact ⟨_, hexec, rfl, rfl, rfl, hb, by simp [← hleft]⟩

/-- Settles O35: both cuts into chunks bring the same stream. -/
theorem chunkingDoesNotMatter : Obligations.ChunkingDoesNotMatter := by
  intro s cs ds rest t hb hfit hbytes h hsome
  obtain ⟨⟨u, left⟩, hc⟩ := Option.ne_none_iff_exists'.mp hsome
  obtain ⟨t₁, h₁, hres, hukind, hkind, hbusy, hstream⟩ := exec_readUnit_of_stream rest hb hfit hc
  rw [hbytes] at hfit hc
  obtain ⟨t', h', hres', hukind', hkind', hbusy', hstream'⟩ := exec_readUnit_of_stream rest hb hfit hc
  obtain rfl : t₁ = t := Host.Outcome.next.inj (h₁.symm.trans h)
  exact ⟨t', h', hres'.trans hres.symm, hukind'.trans hukind.symm, hkind'.trans hkind.symm, hbusy'.trans hbusy.symm,
    hstream'.trans hstream.symm⟩

/-! ### WRITE_UNIT from idle -/

/-- R30, R135: WRITE_UNIT is accepted and run in the same step. -/
theorem exec_writeUnit_of_idle (hb : s.busy = false) (bs : Bytes) :
    exec (.writeUnit bs) s = .next (writeRow (acceptStandalone .writeUnit bs s)) :=
  exec_standalone (.inr (.inr (.inr ⟨rfl, rfl⟩))) hb

/-- Settles O9: acceptance, then one TransportWrite of the operand, answered in full, short, or not yet. -/
theorem writeUnitOperation : Obligations.WriteUnitOperation := by
  intro s bs hb
  rw [exec_writeUnit_of_idle hb]
  refine ⟨fun k ks ht hk => ?_, fun k ks ht hk => ?_, fun ht => ?_⟩
  · rw [writeRow_of_all (s := acceptStandalone .writeUnit bs s) ht hk, complete_of_ok, acceptStandalone_eq, hb]
  · rw [writeRow_of_short (s := acceptStandalone .writeUnit bs s) ht hk, complete_of_error (by decide), cutErrtext_nil,
      acceptStandalone_eq, hb]
  · rw [writeRow_of_no_answer (s := acceptStandalone .writeUnit bs s) ht, acceptStandalone_eq]

end Sys2Proof.Machine
end

section
/-! PROOFS. The rows of an exchange one by one: what each does on each side of its test, and the wire row FRAME. -/

namespace Sys2Proof.Machine

variable {s : State}

/-! ### ENC and TX -/

theorem encRow_of_valid (h : validPayload s.opd) : encRow s = { s with
    csum := xorfold s.opd, len := BitVec.ofNat 7 s.opd.length, frm := frameOf s.opd, seq := .tx } := by
  simp [encRow, encodeScratch, encodePayload_of_valid h, lenCount_of_le h.2.1]

theorem encRow_of_invalid (h : ¬ validPayload s.opd) :
    encRow s = raise .encodeError s.opd { s with len := lenCount s.opd.length } := by
  simp [encRow, encodeScratch, encodePayload_of_invalid h]

theorem txRow_of_no_answer (h : s.tx = []) : txRow s = s := by
  simp [txRow, transportWrite, h]

theorem txRow_of_all {k : Nat} {ks : List Nat} (h : s.tx = k :: ks) (hk : s.frm.length ≤ k) : txRow s = { s with
    tx := ks, hist := s.hist ++ [.write s.frm s.frm.length], seq := .waitReady } := by
  simp [txRow, transportWrite, h, Nat.min_eq_right hk, record]

theorem txRow_of_short {k : Nat} {ks : List Nat} (h : s.tx = k :: ks) (hk : k < s.frm.length) :
    txRow s = raise .writeError [] { s with tx := ks, hist := s.hist ++ [.write s.frm k] } := by
  simp [txRow, transportWrite, h, Nat.min_eq_left hk.le, hk.ne, record]

theorem seqRow_enc (hs : s.seq = .enc) : seqRow s = .next (encRow s) := by
  simp [seqRow, hs]

theorem seqRow_tx (hs : s.seq = .tx) : seqRow s = .next (txRow s) := by
  simp [seqRow, hs]

/-- Settles O14: Encode on either side of validity, and the transport's answer in full, short, or not yet. -/
theorem commandRowsOfTheSequencer : Obligations.CommandRowsOfTheSequencer := by
  intro s hb
  rw [step_of_busy hb]
  refine ⟨fun hs hv => ?_, fun hs hv => ?_, fun k ks hs ht hk => ?_, fun k ks hs ht hk => ?_, fun hs ht => ?_⟩
  · rw [seqRow_enc hs, encRow_of_valid hv]
    rfl
  · rw [seqRow_enc hs, encRow_of_invalid hv]
    exact ⟨s.csum, rfl⟩
  · rw [seqRow_tx hs, txRow_of_all ht hk]
  · rw [seqRow_tx hs, txRow_of_short ht hk]
    rfl
  · rw [seqRow_tx hs, txRow_of_no_answer ht]

/-! ### FRAME and DEC -/

theorem exec_frame_with_matcher (p : Bytes) (hs : s.seq = .dec) (hg : s.gen = true) : exec (.frame p) s = .next { s with
    csum := xorfold p, len := lenCount p.length, pay := p, seq := .matchRec } := by
  simp [exec, execFrame, hs, hg]

theorem exec_frame_without_matcher (p : Bytes) (hs : s.seq = .dec) (hg : s.gen = false) : exec (.frame p) s = .next { s with
    csum := xorfold p, len := lenCount p.length, pay := p, item := ⟨p, none⟩, seq := .yield } := by
  simp [exec, execFrame, hs, hg]

/-- Log 14: a frame is awaited in DEC only. -/
theorem exec_frame_elsewhere (p : Bytes) (hs : s.seq ≠ .dec) : exec (.frame p) s = .next s := by
  cases hq : s.seq with
  | dec => exact absurd hq hs
  | idle | enc | tx | waitReady | read | matchRec | yield | flush | exec => simp [exec, execFrame, hq]

/-- Settles O13: the two ways out of DEC, and the states that await no frame. -/
theorem frameMeaning : Obligations.FrameMeaning := by
  refine fun s p hp => ⟨fun hs hg => ?_, fun hs hg => ?_, exec_frame_elsewhere p⟩
  · rw [exec_frame_with_matcher p hs hg, lenCount_of_le hp]
  · rw [exec_frame_without_matcher p hs hg, lenCount_of_le hp]

theorem decRow_of_no_frame (h : ∀ p, decodeFrame s.params.hexLowerOk s.line ≠ .ok p) :
    ∃ c n, decRow s = .next (raise .decodeError s.line { s with csum := c, len := n }) := by
  cases hd : decodeFrame s.params.hexLowerOk s.line with
  | ok p => exact absurd hd (h p)
  | error e =>
    obtain hk | ⟨p, _, hk⟩ := decodeScratch_cases s.line s
    · exact ⟨s.csum, s.len, by simp only [decRow, hd, hk]⟩
    · exact ⟨xorfold p, lenCount p.length, by simp only [decRow, hd, hk]⟩

/-! ### MATCH and YIELD -/

theorem matchRow_of_hit {r : Rec} (h : verdictOf s.gsel s.pay = .hit r) : matchRow s = { s with
    item := ⟨s.pay, some r⟩, seq := .yield, hist := s.hist ++ [.matched s.pay (.hit r)] } := by
  simp [matchRow, askMatcher, h, record]

theorem matchRow_of_miss (h : verdictOf s.gsel s.pay = .miss) :
    matchRow s = raise .protocolError s.line { s with hist := s.hist ++ [.matched s.pay .miss] } := by
  simp [matchRow, askMatcher, h, record]

theorem yieldRow_of_zero (h : s.shape = .zero) : yieldRow s = raise .protocolError s.line s := by
  simp [yieldRow, h]

theorem yieldRow_of_second (h : s.shape = .one) (hn : s.itemcnt = 1) : yieldRow s = raise .protocolError s.line s := by
  simp [yieldRow, h, hn]

theorem yieldRow_of_first (h : s.shape = .one) (hn : s.itemcnt ≠ 1) :
    yieldRow s = { s with items := [s.item], itemcnt := 1, seq := .read } := by
  simp [yieldRow, h, hn]

theorem yieldRow_of_many (h : s.shape = .many) :
    yieldRow s = { s with items := s.items ++ [s.item], itemcnt := s.itemcnt + 1, seq := .read } := by
  simp [yieldRow, h]

theorem seqRow_dec (hs : s.seq = .dec) : seqRow s = decRow s := by
  simp [seqRow, hs]

theorem seqRow_matchRec (hs : s.seq = .matchRec) : seqRow s = .next (matchRow s) := by
  simp [seqRow, hs]

theorem seqRow_yield (hs : s.seq = .yield) : seqRow s = .next (yieldRow s) := by
  simp [seqRow, hs]

/-- Settles O16: DEC by what the line kept decodes to, MATCH by the matcher's verdict. -/
theorem decodeRowsOfTheSequencer : Obligations.DecodeRowsOfTheSequencer := by
  intro s hb
  rw [step_of_busy hb]
  refine ⟨fun p hs hd => ?_, fun hs hd => ?_, fun r hs hv => ?_, fun hs hv => ?_⟩
  · rw [seqRow_dec hs, decRow_of_frame hd]
  · obtain ⟨c, n, h⟩ := decRow_of_no_frame hd
    rw [seqRow_dec hs, h]
    exact ⟨c, n, rfl⟩
  · rw [seqRow_matchRec hs, matchRow_of_hit hv]
  · rw [seqRow_matchRec hs, matchRow_of_miss hv]
    rfl

/-- Settles O17: the call shape's rule, shape by shape. -/
theorem yieldRowOfTheSequencer : Obligations.YieldRowOfTheSequencer := by
  intro s hb hs
  rw [step_of_busy hb, seqRow_yield hs]
  refine ⟨fun h => ?_, fun h hn => ?_, fun h hn => ?_, fun h => ?_⟩
  · rw [yieldRow_of_zero h]
    rfl
  · rw [yieldRow_of_first h (by omega)]
  · rw [yieldRow_of_second h hn]
    rfl
  · rw [yieldRow_of_many h]

end Sys2Proof.Machine
end

section
/-! PROOFS. A row of the sequencer does not look at the host's list: with any other list it does the same, and leaves that
list. -/

namespace Sys2Proof.Machine

variable {s t : State}

/-- The state with this list of operations to come. -/
def withHost (h : List Command) (s : State) : State :=
  { s with host := h }

/-- A row that neither reads nor writes the host's list. -/
def HostFree (row : State → Result) : Prop :=
  ∀ (s t : State) (h : List Command), row s = .next t → row (withHost h s) = .next (withHost h t)

/-- A row that always answers a next state is host-free when its next state goes along with the list. -/
theorem hostFree_next {f : State → State} (hf : ∀ h s, f (withHost h s) = withHost h (f s)) :
    HostFree (fun s => .next (f s)) := by
  intro s t h hs
  cases hs
  simp only [hf]

theorem encRow_withHost (h : List Command) (s : State) : encRow (withHost h s) = withHost h (encRow s) := by
  simp only [encRow, withHost]
  split <;> rfl

theorem txRow_withHost (h : List Command) (s : State) : txRow (withHost h s) = withHost h (txRow s) := by
  obtain ⟨ht, -⟩ | ⟨k, ks, ht, -⟩ := transportWrite_cases s.frm s
  · rw [txRow_of_no_answer ht, txRow_of_no_answer (s := withHost h s) ht]
  · by_cases hk : s.frm.length ≤ k
    · rw [txRow_of_all ht hk, txRow_of_all (s := withHost h s) ht hk]
      rfl
    · rw [txRow_of_short ht (by omega), txRow_of_short (s := withHost h s) ht (by simpa [withHost] using hk)]
      rfl

theorem writeRow_withHost (h : List Command) (s : State) : writeRow (withHost h s) = withHost h (writeRow s) := by
  obtain ⟨ht, -⟩ | ⟨k, ks, ht, -⟩ := transportWrite_cases s.opd s
  · rw [writeRow_of_no_answer ht, writeRow_of_no_answer (s := withHost h s) ht]
  · by_cases hk : s.opd.length ≤ k
    · rw [writeRow_of_all ht hk, writeRow_of_all (s := withHost h s) ht hk]
      rfl
    · rw [writeRow_of_short ht (by omega), writeRow_of_short (s := withHost h s) ht (by simpa [withHost] using hk)]
      rfl

theorem decodeScratch_withHost (f : Bytes) (h : List Command) (s : State) :
    decodeScratch f (withHost h s) = withHost h (decodeScratch f s) := by
  simp only [decodeScratch, withHost]
  split <;> rfl

theorem runEncode_withHost (h : List Command) (s : State) : runEncode (withHost h s) = withHost h (runEncode s) := by
  simp only [runEncode, withHost]
  split <;> rfl

theorem runDecode_withHost (h : List Command) (s : State) : runDecode (withHost h s) = withHost h (runDecode s) := by
  unfold runDecode
  rw [show (withHost h s).opd = s.opd from rfl, show (withHost h s).params = s.params from rfl, decodeScratch_withHost]
  split <;> rfl

theorem matchRow_withHost (h : List Command) (s : State) : matchRow (withHost h s) = withHost h (matchRow s) := by
  cases hv : verdictOf s.gsel s.pay with
  | hit r =>
    rw [matchRow_of_hit hv, matchRow_of_hit (s := withHost h s) hv]
    rfl
  | miss =>
    rw [matchRow_of_miss hv, matchRow_of_miss (s := withHost h s) hv]
    rfl

theorem yieldRow_withHost (h : List Command) (s : State) : yieldRow (withHost h s) = withHost h (yieldRow s) := by
  cases hsh : s.shape with
  | zero =>
    rw [yieldRow_of_zero hsh, yieldRow_of_zero (s := withHost h s) hsh]
    rfl
  | one =>
    by_cases hn : s.itemcnt = 1
    · rw [yieldRow_of_second hsh hn, yieldRow_of_second (s := withHost h s) hsh hn]
      rfl
    · rw [yieldRow_of_first hsh hn, yieldRow_of_first (s := withHost h s) hsh hn]
      rfl
  | many =>
    rw [yieldRow_of_many hsh, yieldRow_of_many (s := withHost h s) hsh]
    rfl

theorem hostFree_execFrame (p : Bytes) : HostFree (execFrame p) := by
  intro s t h hrow
  by_cases hs : s.seq = .dec
  · cases hg : s.gen with
    | true =>
      obtain rfl := Host.Outcome.next.inj ((exec_frame_with_matcher p hs hg).symm.trans hrow)
      exact exec_frame_with_matcher p (s := withHost h s) hs hg
    | false =>
      obtain rfl := Host.Outcome.next.inj ((exec_frame_without_matcher p hs hg).symm.trans hrow)
      exact exec_frame_without_matcher p (s := withHost h s) hs hg
  · obtain rfl := Host.Outcome.next.inj ((exec_frame_elsewhere p hs).symm.trans hrow)
    exact exec_frame_elsewhere p (s := withHost h s) hs

theorem hostFree_decRow : HostFree decRow := by
  intro s t h hrow
  unfold decRow at hrow ⊢
  rw [show (withHost h s).line = s.line from rfl, show (withHost h s).params = s.params from rfl, decodeScratch_withHost]
  cases hd : decodeFrame s.params.hexLowerOk s.line with
  | ok p =>
    rw [hd] at hrow
    exact hostFree_execFrame p s t h hrow
  | error e =>
    rw [hd] at hrow
    cases hrow
    rfl

/-! ### The rows that read -/

/-- What a FILL or a ReadUnit comes to, with this list of operations to come. -/
def FetchResult.withHost (h : List Command) : FetchResult → FetchResult
  | .found u t => .found u (Machine.withHost h t)
  | .failed k t => .failed k (Machine.withHost h t)
  | .waiting t => .waiting (Machine.withHost h t)
  | .overflow => .overflow

theorem fetchUnit_withHost (h : List Command) (rx : List ReadAnswer) (s : State) :
    fetchUnit rx (withHost h s) = (fetchUnit rx s).withHost h := by
  induction rx generalizing s with
  | nil => cases hc : cutUnit s.rxbuf <;> simp [fetchUnit, hc, withHost, FetchResult.withHost]
  | cons a rx ih =>
    cases hc : cutUnit s.rxbuf with
    | some q => simp [fetchUnit, hc, withHost, FetchResult.withHost]
    | none =>
      cases a with
      | data b bs =>
        cases hf : rxbufFits s.params (s.rxbuf.length + (bs.length + 1)) with
        | true =>
          rw [fetchUnit_data b bs rx s hc hf, fetchUnit_data b bs rx (withHost h s) hc hf, ← ih]
          rfl
        | false =>
          rw [fetchUnit_data_overflow rx hc hf, fetchUnit_data_overflow (s := withHost h s) rx hc hf]
          rfl
      | timeout | eos => simp [fetchUnit, hc, withHost, FetchResult.withHost, fill, record]

theorem exec_unit_withHost (u : RxUnit) (h : List Command) (s : State) :
    ∃ v, exec u.toInstr s = .next v ∧ exec u.toInstr (withHost h s) = .next (withHost h v) := by
  have unexpected (hu : s.seq = .waitReady ∧ u ≠ .ready ∨ s.seq = .read ∧ u = .ready) :
      ∃ v, exec u.toInstr s = .next v ∧ exec u.toInstr (withHost h s) = .next (withHost h v) :=
    ⟨_, exec_unexpected_unit u hu, exec_unexpected_unit (s := withHost h s) u hu⟩
  by_cases hw : s.seq = .waitReady
  · cases u with
    | ready => exact ⟨_, (readyUnitMeaning s).1 hw, (readyUnitMeaning (withHost h s)).1 hw⟩
    | done | line l => exact unexpected (.inl ⟨hw, by simp⟩)
  by_cases hr : s.seq = .read
  · cases u with
    | ready => exact unexpected (.inr ⟨hr, rfl⟩)
    | done => exact ⟨_, (doneUnitMeaning s).1 hr, (doneUnitMeaning (withHost h s)).1 hr⟩
    | line l => exact ⟨_, (lineUnitMeaning s l).1 hr, (lineUnitMeaning (withHost h s) l).1 hr⟩
  by_cases hx : s.seq = .exec ∧ s.sop = .readUnit
  · obtain ⟨hs, hop⟩ := hx
    exact ⟨_, exec_unit_of_readUnit u hs hop, exec_unit_of_readUnit (s := withHost h s) u hs hop⟩
  · exact ⟨_, exec_unit_elsewhere u hw hr hx, exec_unit_elsewhere (s := withHost h s) u hw hr hx⟩

theorem hostFree_unitMeaning (u : RxUnit) : HostFree (unitMeaning u) := by
  intro s t h hrow
  rw [unitMeaning_eq_exec] at hrow ⊢
  obtain ⟨v, hv, hv'⟩ := exec_unit_withHost u h s
  obtain rfl := Host.Outcome.next.inj (hv.symm.trans hrow)
  exact hv'

theorem readFailed_withHost (k : Kind) (h : List Command) (s : State) :
    readFailed k (withHost h s) = withHost h (readFailed k s) := by
  simp only [readFailed, withHost]
  split <;> rfl

theorem hostFree_readRow : HostFree readRow := by
  intro s t h hrow
  unfold readRow at hrow ⊢
  rw [show (withHost h s).rx = s.rx from rfl, fetchUnit_withHost]
  split at hrow
  · rename_i u v hf
    simpa [hf, FetchResult.withHost] using hostFree_unitMeaning u v t h hrow
  · rename_i k v hf
    cases hrow
    simp [hf, FetchResult.withHost, readFailed_withHost]
  · rename_i v hf
    cases hrow
    simp [hf, FetchResult.withHost]
  · cases hrow

/-! ### Every row -/

theorem hostFree_execRow : HostFree execRow := by
  intro s t h hrow
  have hop : (withHost h s).sop = s.sop := rfl
  cases hq : s.sop <;> simp only [execRow, hop, hq] at hrow ⊢
  case encode => exact hostFree_next runEncode_withHost s t h hrow
  case decode => exact hostFree_next runDecode_withHost s t h hrow
  case readUnit => exact hostFree_readRow s t h hrow
  case writeUnit => exact hostFree_next writeRow_withHost s t h hrow

theorem hostFree_seqRow : HostFree seqRow := by
  intro s t h hrow
  have hseq : (withHost h s).seq = s.seq := rfl
  cases hs : s.seq <;> simp only [seqRow, hseq, hs] at hrow ⊢
  case idle => exact hostFree_next (f := id) (fun _ _ => rfl) s t h hrow
  case enc => exact hostFree_next encRow_withHost s t h hrow
  case tx => exact hostFree_next txRow_withHost s t h hrow
  case waitReady => exact hostFree_readRow s t h hrow
  case read => exact hostFree_readRow s t h hrow
  case dec => exact hostFree_decRow s t h hrow
  case matchRec => exact hostFree_next matchRow_withHost s t h hrow
  case yield => exact hostFree_next yieldRow_withHost s t h hrow
  case flush => exact hostFree_next (f := fun s => errorExit s.raised s) (fun _ _ => rfl) s t h hrow
  case exec => exact hostFree_execRow s t h hrow

/-- Settles O48: a step of a busy block is a row. -/
theorem hostCannotReachARunningOperation : Obligations.HostCannotReachARunningOperation := by
  intro s t h hb hstep
  rw [step_of_busy hb] at hstep
  exact (step_of_busy (s := withHost h s) hb).trans (hostFree_seqRow s t h hstep)

end Sys2Proof.Machine
end

section
/-! PROOFS. Exchanges that run from idle to their end. Each is a chain of stretches under drive: the command, READY, the lines
accepted, and then DONE or the first departure, which the error exit follows. -/

namespace Sys2Proof.Machine

variable {s t : State} {i : Instr} {shape : Shape} {gen : Bool} {cmd : Bytes}

/-! ### From acceptance to the end -/

/-- R152: an exchange that is driven to IDLE within the bound ends there. -/
theorem exec_of_drives {m : Nat} (hi : isExchange i shape gen cmd) (hb : s.busy = false)
    (h : Drives m (acceptExchange shape gen cmd s) t) (hm : m ≤ rowBound s) (ht : t.seq = .idle) : exec i s = .next t := by
  rw [(exec_exchange hi hb).1, ← Nat.sub_add_cancel hm, h, drive_of_idle _ _ ht]

/-- R165, R203: an exchange that is driven to a raise within the bound ends in the error exit with what was raised. -/
theorem exec_of_raise {m : Nat} {k : Kind} {text : Bytes} (hi : isExchange i shape gen cmd) (hb : s.busy = false)
    (h : Drives m (acceptExchange shape gen cmd s) (raise k text t)) (hm : m + 1 ≤ rowBound s) (hk : k ≠ .ok) :
    exec i s = .next { t with
      raised := ⟨k, text⟩, kind := k, err := true, doneF := true, busy := false, seq := .idle, res := [], items := []
      resultPresent := false, ukind := false, errtext := cutErrtext t.params text
      rxbuf := if t.params.flushClearsRxbuf then [] else t.rxbuf
      rx := t.rxNext.headD [], rxNext := t.rxNext.tail, hist := t.hist ++ [.flush] } := by
  rw [exec_of_drives hi hb (h.trans (drives_errorExit rfl (raise_raised _ _ _))) hm rfl, errorExit, complete_of_error hk]
  rfl

/-! ### The command -/

theorem drives_unencodable (s : State) (hv : ¬ validPayload cmd) : Drives 1 (acceptExchange shape gen cmd s)
    (raise .encodeError cmd { acceptExchange shape gen cmd s with len := lenCount cmd.length }) := by
  refine .one (by simp) (by simp [waits]) ?_
  rw [seqRow_enc rfl, encRow_of_invalid hv]
  rfl

/-- Settles O36: ENC raises at once. -/
theorem unencodableCommandOnlyFlushes : Obligations.UnencodableCommandOnlyFlushes := by
  intro s i shape gen cmd hi hb hv
  refine ⟨s.csum, ?_⟩
  rw [exec_of_raise hi hb (drives_unencodable s hv) (by simp [rowBound]) (by decide), hb]
  rfl

/-- R153: the command is encoded and handed over; the transport has still to take it. -/
def commandEncoded (s : State) (shape : Shape) (gen : Bool) (cmd : Bytes) : State :=
  { acceptExchange shape gen cmd s with
    csum := xorfold cmd, len := BitVec.ofNat 7 cmd.length, frm := frameOf cmd, seq := .tx }

theorem drives_encoded (s : State) (hv : validPayload cmd) :
    Drives 1 (acceptExchange shape gen cmd s) (commandEncoded s shape gen cmd) := by
  refine .one (by simp) (by simp [waits]) ?_
  rw [seqRow_enc rfl, encRow_of_valid hv]
  rfl

theorem drives_short_write {k : Nat} {ks : List Nat} (ht : s.tx = k :: ks) (hk : k < cmd.length + 6) :
    Drives 1 (commandEncoded s shape gen cmd) (raise .writeError [] { commandEncoded s shape gen cmd with
      tx := ks, hist := s.hist ++ [.write (frameOf cmd) k] }) := by
  refine .one (by simp [commandEncoded]) (by simp [waits, commandEncoded, ht]) ?_
  rw [seqRow_tx rfl, txRow_of_short (s := commandEncoded s shape gen cmd) ht (by simpa [commandEncoded] using hk)]
  rfl

/-- Settles O37: ENC builds the frame, TX raises. -/
theorem shortWriteEndsTheExchange : Obligations.ShortWriteEndsTheExchange := by
  intro s i shape gen cmd k ks hi hb hv ht hk
  rw [exec_of_raise hi hb ((drives_encoded s hv).trans (drives_short_write ht hk)) (by simp [rowBound]) (by decide),
    cutErrtext_nil, List.append_assoc, hb]
  rfl

/-- R153, R165: the command has been sent in full and its answer is awaited. -/
def commandSent (s : State) (shape : Shape) (gen : Bool) (cmd : Bytes) (ks : List Nat) : State :=
  { commandEncoded s shape gen cmd with
    seq := .waitReady, tx := ks, hist := s.hist ++ [.write (frameOf cmd) (cmd.length + 6)] }

theorem drives_sent {k : Nat} {ks : List Nat} (hv : validPayload cmd) (ht : s.tx = k :: ks) (hk : cmd.length + 6 ≤ k) :
    Drives 2 (acceptExchange shape gen cmd s) (commandSent s shape gen cmd ks) := by
  have h := drives_command s shape gen cmd k ks hv ht hk
  rwa [lenCount_of_le hv.2.1] at h

/-! ### One unit -/

/-- A state that reads a unit, with these chunks and then this script to come, which RXBUF can hold. -/
structure Reading (s : State) (cs : List (Byte × Bytes)) (rest : List ReadAnswer) : Prop where
  seq : s.seq = .waitReady ∨ s.seq = .read
  rx : s.rx = dataAnswers cs ++ rest
  fits : rxbufFits s.params (s.rxbuf ++ chunkBytes cs).length = true

/-- The state after reads that leave this in RXBUF and this script. -/
def taking (s : State) (r : Bytes) (rx : List ReadAnswer) (evs : List Event) : State :=
  { s with rxbuf := r, rx := rx, hist := s.hist ++ evs }

variable {cs : List (Byte × Bytes)} {rest : List ReadAnswer}

/-- R132, R165: the row of a state that reads, when the chunks complete a unit whose meaning is to leave RXBUF and do `g`. -/
theorem Reading.drives_unit {u : RxUnit} {left : Bytes} {g : State → State} (h : Reading s cs rest)
    (hS : s.rxbuf ++ chunkBytes cs = u.bytes ++ left) (hl : ∀ l, u = .line l → lineOk l = true)
    (hu : ∀ w : State, w.seq = s.seq → exec u.toInstr w = .next (g (dropRx u.bytes.length w))) :
    ∃ cs1 cs2 r, cs = cs1 ++ cs2 ∧ r ++ chunkBytes cs2 = left ∧ s.rxbuf ++ chunkBytes cs1 = u.bytes ++ r
      ∧ Drives 1 s (g (taking s r (dataAnswers cs2 ++ rest) ((dataAnswers cs1).map Event.read))) := by
  obtain ⟨cs1, cs2, r, hcs, hleft, hbuf, hw, hrow⟩ := seqRow_of_unit h.seq h.rx h.fits hS hl
  refine ⟨cs1, cs2, r, hcs, hleft, hbuf, .one (by obtain h | h := h.seq <;> simp [h]) hw ?_⟩
  rw [hrow, unitMeaning_eq_exec, hu (afterFills s cs1 (dataAnswers cs2 ++ rest)) rfl]
  simp [dropRx, afterFills, taking, hbuf]

/-- R165: the next row raises this kind and text, after reads that took in a beginning of the chunks; RXBUF holds what was
taken in but for the text. -/
def RaisesAtOnce (s : State) (cs : List (Byte × Bytes)) (k : Kind) (text : Bytes) : Prop :=
  k ≠ .ok ∧ ∃ cs1 cs2 r rest evs, cs = cs1 ++ cs2 ∧ (∀ e ∈ evs, isDrainEvent e) ∧ rxTaken evs = chunkBytes cs1
    ∧ s.rxbuf ++ chunkBytes cs1 = text ++ r ∧ Drives 1 s (raise k text (taking s r (dataAnswers cs2 ++ rest) evs))

/-- R154, R156: a unit that is not the one awaited. -/
theorem Reading.raises_unexpected {u : RxUnit} {left : Bytes} (h : Reading s cs rest)
    (hu : s.seq = .waitReady ∧ u ≠ .ready ∨ s.seq = .read ∧ u = .ready)
    (hS : s.rxbuf ++ chunkBytes cs = u.bytes ++ left) (hl : ∀ l, u = .line l → lineOk l = true) :
    RaisesAtOnce s cs .protocolError u.bytes := by
  obtain ⟨cs1, cs2, r, hcs, -, hbuf, d⟩ := h.drives_unit hS hl (g := raise .protocolError u.bytes)
    (fun w hw => exec_unexpected_unit u (by rwa [hw]))
  exact ⟨by decide, cs1, cs2, r, rest, _, hcs, isDrainEvent_of_reads _, rxTaken_dataAnswers cs1, hbuf, d⟩

/-- R131, R134: a read that fails while no unit is whole. -/
theorem Reading.raises_failed_read {k : Kind} (h : Reading s cs rest) (hf : readFails (s.rxbuf ++ chunkBytes cs) rest k) :
    RaisesAtOnce s cs k [] := by
  obtain ⟨a, rest', rfl, hk⟩ : ∃ a rest', rest = a :: rest'
      ∧ (a = .timeout ∧ k = .timeoutError ∨ a = .eos ∧ k = .readError) := by
    obtain ⟨-, rest', ⟨rfl, hk⟩ | ⟨rfl, hk⟩⟩ := hf
    · exact ⟨_, rest', rfl, .inl ⟨rfl, hk⟩⟩
    · exact ⟨_, rest', rfl, .inr ⟨rfl, hk⟩⟩
  obtain ⟨hne, ha⟩ := kind_of_failed_read hk
  refine ⟨hne, cs, [], s.rxbuf ++ chunkBytes cs, rest', (dataAnswers cs ++ [a]).map Event.read, (List.append_nil cs).symm,
    isDrainEvent_of_reads _, ?_, rfl, ?_⟩
  · rw [List.map_append, rxTaken_append, rxTaken_dataAnswers]
    simp [rxTaken, ha]
  have hrow : seqRow s = .next (raise k [] (afterFailure s cs a rest')) := by
    rw [← readFailed_of_exchange (s := afterFailure s cs a rest') k h.seq, ← readRow_of_failed_read h.rx h.fits hf.1 hk]
    obtain hs | hs := h.seq <;> simp [seqRow, hs]
  refine .one ?_ ?_ hrow <;> obtain hs | hs := h.seq <;> simp [waits, hs, h.rx]

/-! ### The first unit -/

theorem Reading.raises_at_ready {k : Kind} {text : Bytes} (h : Reading s cs rest) (hs : s.seq = .waitReady)
    (hd : departsAtReady (s.rxbuf ++ chunkBytes cs) rest k text) : RaisesAtOnce s cs k text := by
  obtain ⟨left, hS, rfl, rfl⟩ | ⟨l, left, hS, hl, rfl, rfl⟩ | ⟨hf, rfl⟩ := hd
  · exact h.raises_unexpected (u := .done) (.inl ⟨hs, by simp⟩) hS (by simp)
  · exact h.raises_unexpected (u := .line text) (.inl ⟨hs, by simp⟩) hS (by rintro _ ⟨⟩; exact hl)
  · exact h.raises_failed_read hf

/-- Settles O39: the command, then the departure in WAIT_READY. -/
theorem firstUnitMustBeReady : Obligations.FirstUnitMustBeReady := by
  intro s i shape gen cmd k ks cs rest kind text hi hb hv ht hk hrx hfit hd
  have hreading : Reading (commandSent s shape gen cmd ks) cs rest := ⟨.inl rfl, hrx, hfit⟩
  obtain ⟨hne, cs1, cs2, r, rest', evs, hcs, hev, htk, hbuf, d⟩ := hreading.raises_at_ready rfl hd
  refine ⟨cs1, cs2, evs, if s.params.flushClearsRxbuf then [] else r, hcs, hev, htk, fun hf => if_pos hf, fun hf => ?_, ?_⟩
  · rw [if_neg (by simp [hf])]
    exact hbuf
  · rw [exec_of_raise hi hb ((drives_sent hv ht hk).trans d) (by simp [rowBound]) hne]
    simp only [taking, commandSent, commandEncoded, acceptExchange_eq, List.append_assoc, List.cons_append, List.nil_append,
      hb]

end Sys2Proof.Machine
end

section
/-! PROOFS. Exchanges whose answer starts with READY and lines that are accepted, and then either ends with DONE or departs. -/

namespace Sys2Proof.Machine

variable {s t u : State} {i : Instr} {shape : Shape} {gen : Bool} {cmd : Bytes}
variable {cs cs' : List (Byte × Bytes)} {rest rest' : List ReadAnswer} {left left' : Bytes} {evs evs' : List Event}

/-! ### Stretches of reading -/

theorem AfterItems.hist_eq (h : AfterItems s t cs rest left evs) : t.hist = s.hist ++ evs := by
  rw [h.eq]

theorem AfterItems.trans (h : AfterItems s t cs rest left evs) (h' : AfterItems t u cs' rest' left' evs') :
    AfterItems s u cs' rest' left' (evs ++ evs') where
  eq := by
    have e := h'.eq
    rw [h.eq] at e
    simpa using e
  stream := h'.stream
  fits := by
    obtain ⟨-, -, hp, -⟩ := h.frame
    exact hp ▸ h'.fits
  drain e he := (List.mem_append.mp he).elim (h.drain e) (h'.drain e)

/-- The state of SEQ is not part of what a stretch is. -/
theorem AfterItems.goto (h : AfterItems s t cs rest left evs) (q : Seq) :
    AfterItems { s with seq := q } { t with seq := q } cs rest left evs where
  eq := congrArg (fun v : State => { v with seq := q }) h.eq
  stream := h.stream
  fits := h.fits
  drain := h.drain

/-- The registers of the rows after READ, and what those rows record, belong to the stretch. -/
theorem AfterItems.keeps (h : AfterItems s t cs rest left evs) (c : Byte) (len : BitVec 7) (line pay : Bytes) (item : Item)
    (hevs : ∀ e ∈ evs', isDrainEvent e) : AfterItems s { t with
      csum := c, len := len, line := line, pay := pay, item := item, hist := t.hist ++ evs' } cs rest left (evs ++ evs') where
  eq := by
    have e := congrArg (fun v : State => { v with
      csum := c, len := len, line := line, pay := pay, item := item, hist := v.hist ++ evs' }) h.eq
    simpa using e
  stream := h.stream
  fits := h.fits
  drain e he := (List.mem_append.mp he).elim (h.drain e) (hevs e)

theorem AfterItems.reading (h : AfterItems s t cs rest left evs) (hs : s.seq = .read) : Reading t cs rest := by
  obtain ⟨hq, hrx, hp, -⟩ := h.frame
  exact ⟨.inr (hq.trans hs), hrx, hp ▸ h.fits⟩

/-- The chunks of a read, one after the other, are a stretch. -/
theorem afterItems_taking {cs1 : List (Byte × Bytes)} {r pre : Bytes} (h : Reading s (cs1 ++ cs) rest')
    (hbuf : s.rxbuf ++ chunkBytes cs1 = pre ++ r) (hevs : ∀ e ∈ evs, isDrainEvent e) :
    AfterItems s (taking s r (dataAnswers cs ++ rest) evs) cs rest (r ++ chunkBytes cs) evs where
  eq := rfl
  stream := rfl
  fits := by
    refine rxbufFits_mono _ _ _ ?_ h.fits
    have hlen := congrArg List.length hbuf
    simp only [taking, chunkBytes_append, List.length_append] at hlen ⊢
    omega
  drain := hevs

/-! ### READY and the lines accepted -/

theorem Reading.drives_ready (h : Reading s cs rest) (hs : s.seq = .waitReady)
    (hS : s.rxbuf ++ chunkBytes cs = Config.ready :: left) :
    ∃ t cs1 cs2 evs, Drives 1 s t ∧ cs = cs1 ++ cs2 ∧ rxTaken evs = chunkBytes cs1
      ∧ AfterItems { s with seq := .read } t cs2 rest left evs ∧ t.items = s.items ∧ t.itemcnt = s.itemcnt := by
  obtain ⟨cs1, cs2, r, rfl, rfl, hbuf, d⟩ := h.drives_unit (u := .ready) (g := fun w => { w with seq := .read }) hS (by simp)
    (fun w hw => (readyUnitMeaning w).1 (hw.trans hs))
  exact ⟨_, cs1, cs2, _, d, rfl, rxTaken_dataAnswers cs1,
    (afterItems_taking h hbuf (isDrainEvent_of_reads _)).goto .read, rfl, rfl⟩

/-- The matcher latched is the one presented, where one is asked. -/
theorem lineYields_latched {lower : Bool} {g g' : Matcher} {l : Bytes} {it : Item} (h : lineYields lower gen g l it) :
    lineYields lower gen (if gen then g else g') l it := by
  cases gen with
  | true => exact h
  | false => exact ⟨h.1, h.2.1, .inl (by simpa using h.2.2)⟩

/-- What is common to the exchanges that receive READY and lines they accept: the command is taken in full, and the stream
is READY, the lines, and this tail. -/
structure Answered (s : State) (shape : Shape) (gen : Bool) (cmd : Bytes) (ks : List Nat) (cs : List (Byte × Bytes))
    (rest : List ReadAnswer) (ls : List Bytes) (its : List Item) (tail : Bytes) : Prop where
  valid : validPayload cmd
  sent : ∃ k, s.tx = k :: ks ∧ cmd.length + 6 ≤ k
  rx : s.rx = dataAnswers cs ++ rest
  fits : rxbufFits s.params (s.rxbuf ++ chunkBytes cs).length = true
  yields : List.Forall₂ (lineYields s.params.hexLowerOk gen (presentedMatcher s)) ls its
  allowed : shapeAllows shape its.length
  stream : s.rxbuf ++ chunkBytes cs = Config.ready :: (ls.flatten ++ tail)

variable {ks : List Nat} {ls : List Bytes} {its : List Item} {tail : Bytes}

/-- The state in READ before the first line, but for what the reads have changed. -/
def answerStarted (s : State) (shape : Shape) (gen : Bool) (cmd : Bytes) (ks : List Nat) : State :=
  { commandSent s shape gen cmd ks with seq := .read }

theorem answerStarted_hist_append (evs : List Event) :
    (answerStarted s shape gen cmd ks).hist ++ evs = s.hist ++ .write (frameOf cmd) (cmd.length + 6) :: evs := by
  simp [answerStarted, commandSent]

/-- R152 to R162: the stretches up to the last line accepted. -/
theorem Answered.drives (h : Answered s shape gen cmd ks cs rest ls its tail) :
    ∃ m t cs1 cs2 evs, m ≤ 4 * ls.length + 3 ∧ Drives m (acceptExchange shape gen cmd s) t ∧ cs = cs1 ++ cs2
      ∧ rxTaken evs = chunkBytes cs1 ∧ AfterItems (answerStarted s shape gen cmd ks) t cs2 rest tail evs
      ∧ t.items = its ∧ t.itemcnt = its.length := by
  obtain ⟨k, ht, hk⟩ := h.sent
  have hreading : Reading (commandSent s shape gen cmd ks) cs rest := ⟨.inl rfl, h.rx, h.fits⟩
  obtain ⟨t₁, cs1, cs2, evs, d₁, hcs, htk, hA, hitems, hcnt⟩ := hreading.drives_ready rfl h.stream
  obtain ⟨hq, hrx, hp, hgen, hgsel, hshape⟩ := hA.frame
  have hallowed : shapeAllows t₁.shape (t₁.itemcnt + its.length) := by
    rw [hshape, hcnt]
    exact (Nat.zero_add its.length).symm ▸ h.allowed
  obtain ⟨m, t, cs1', cs2', evs', hm, d₂, hcs', htk', hA', hitems', hcnt'⟩ :=
    drives_of_lines ls its t₁.params.hexLowerOk t₁.gen t₁.gsel t₁ cs2 rest tail rfl rfl rfl hq hrx (hp ▸ hA.fits) hA.stream
      (by rw [hp, hgen, hgsel]; exact h.yields.imp fun _ _ => lineYields_latched)
      (by rw [hitems, hcnt]; rfl) hallowed
  refine ⟨2 + 1 + m, t, cs1 ++ cs1', cs2', evs ++ evs', by omega, ((drives_sent h.valid ht hk).trans d₁).trans d₂,
    by simp [hcs, hcs'], by simp [htk, htk'], hA.trans hA', ?_, ?_⟩
  · rw [hitems', hitems]
    rfl
  · rw [hcnt', hcnt]
    exact Nat.zero_add its.length

/-- R152: READY, the lines and at most eight more rows are within the bound. -/
theorem Answered.rows_le (h : Answered s shape gen cmd ks cs rest ls its tail) : 4 * ls.length + 12 ≤ rowBound s := by
  have hlen := congrArg List.length h.stream
  have hls := length_le_flatten_of_yields h.yields
  simp only [List.length_append, List.length_cons] at hlen
  rw [rowBound, h.rx, answerBytes_dataAnswers]
  omega

/-! ### DONE -/

theorem Reading.drives_done (h : Reading s cs rest) (hs : s.seq = .read)
    (hS : s.rxbuf ++ chunkBytes cs = Config.done :: left) :
    ∃ t cs1 cs2 evs, Drives 1 s (complete .ok [] { t with resultPresent := exchangeResultPresent t }) ∧ cs = cs1 ++ cs2
      ∧ rxTaken evs = chunkBytes cs1 ∧ AfterItems s t cs2 rest left evs ∧ t.items = s.items ∧ t.itemcnt = s.itemcnt := by
  obtain ⟨cs1, cs2, r, rfl, rfl, hbuf, d⟩ := h.drives_unit (u := .done)
    (g := fun w => complete .ok [] { w with resultPresent := exchangeResultPresent w }) hS (by simp)
    (fun w hw => exec_ctlDone_of_read (hw.trans hs))
  exact ⟨_, cs1, cs2, _, d, rfl, rxTaken_dataAnswers cs1, afterItems_taking h hbuf (isDrainEvent_of_reads _), rfl, rfl⟩

/-- Settles O38: the stretches up to the last line, then DONE. -/
theorem exchangeReturnsItsItems : Obligations.ExchangeReturnsItsItems := by
  intro s i shape gen cmd k ks cs rest ls its left hi hb hv ht hk hrx hfit hy ha hS
  have h : Answered s shape gen cmd ks cs rest ls its (Config.done :: left) := ⟨hv, ⟨k, ht, hk⟩, hrx, hfit, hy, ha, hS⟩
  obtain ⟨m, t, cs1, cs2, evs, hm, d, hcs, htk, hA, hitems, hcnt⟩ := h.drives
  obtain ⟨u, cs1', cs2', evs', d', hcs', htk', hA', hitems', hcnt'⟩ := (hA.reading rfl).drives_done hA.frame.1 hA.stream
  have hAll := hA.trans hA'
  have hitems : u.items = its := hitems'.trans hitems
  have hcnt : u.itemcnt = its.length := hcnt'.trans hcnt
  refine ⟨cs1 ++ cs1', cs2', u.rxbuf, evs ++ evs', u.csum, u.len, u.line, u.pay, u.item, by simp [hcs, hcs'], hAll.stream,
    hAll.drain, by simp [htk, htk'], ?_⟩
  rw [exec_of_drives hi hb (d.trans d') (by have := h.rows_le; omega) rfl, complete_of_ok, exchangeResultPresent,
    ← Bool.decide_and, hAll.eq, hitems, hcnt, answerStarted_hist_append, hb]
  rfl

/-! ### The first departure -/

/-- R165: within `m` rows the exchange raises this kind and text, after a stretch of reading that leaves the stream but for
the text. -/
def RaisesWithin (m : Nat) (s : State) (cs : List (Byte × Bytes)) (k : Kind) (text : Bytes) : Prop :=
  k ≠ .ok ∧ ∃ n t cs1 cs2 rest left evs, n ≤ m ∧ Drives n s (raise k text t) ∧ cs = cs1 ++ cs2
    ∧ rxTaken evs = chunkBytes cs1 ∧ s.rxbuf ++ chunkBytes cs = text ++ left ∧ AfterItems s t cs2 rest left evs
    ∧ t.itemcnt = s.itemcnt

theorem RaisesAtOnce.within {k : Kind} {text : Bytes} (h : RaisesAtOnce s cs k text) (hr : Reading s cs rest) :
    RaisesWithin 4 s cs k text := by
  obtain ⟨hne, cs1, cs2, r, rest', evs, rfl, hev, htk, hbuf, d⟩ := h
  exact ⟨hne, 1, _, cs1, cs2, rest', r ++ chunkBytes cs2, evs, by decide, d, rfl, htk,
    by rw [chunkBytes_append, ← List.append_assoc, hbuf, List.append_assoc], afterItems_taking hr hbuf hev, rfl⟩

/-- R157 to R161: from DEC, within three rows that read nothing, the exchange raises this kind with the line kept as text. -/
def RaisesFromDec (s : State) (k : Kind) : Prop :=
  k ≠ .ok ∧ ∃ n c len pay item evs, n ≤ 3 ∧ (∀ e ∈ evs, isDrainEvent e) ∧ rxTaken evs = []
    ∧ Drives n s (raise k s.line { s with csum := c, len := len, pay := pay, item := item, hist := s.hist ++ evs })

theorem drives_dec (hs : s.seq = .dec) (h : decRow s = .next t) : Drives 1 s t :=
  .one (by simp [hs]) (by simp [waits, hs]) ((seqRow_dec hs).trans h)

theorem raisesFromDec_of_no_frame (hs : s.seq = .dec) (hd : ∀ p, decodeFrame s.params.hexLowerOk s.line ≠ .ok p) :
    RaisesFromDec s .decodeError := by
  obtain ⟨c, n, hrow⟩ := decRow_of_no_frame hd
  refine ⟨by decide, 1, c, n, s.pay, s.item, [], by decide, by simp, rfl, ?_⟩
  rw [List.append_nil]
  exact drives_dec hs hrow

theorem raisesFromDec_of_miss {p : Bytes} (hs : s.seq = .dec) (hd : decodeFrame s.params.hexLowerOk s.line = .ok p)
    (hg : s.gen = true) (hv : verdictOf s.gsel p = .miss) : RaisesFromDec s .protocolError := by
  have d₁ := drives_dec hs ((decRow_of_frame hd).trans (exec_frame_with_matcher p hs hg))
  refine ⟨by decide, 2, xorfold p, lenCount p.length, p, s.item, [.matched p .miss], by decide, by simp [isDrainEvent], rfl,
    d₁.trans (.one (by simp) (by simp [waits]) ?_)⟩
  rw [seqRow_matchRec rfl, matchRow_of_miss hv]
  rfl

/-- R159 to R161: the item that the call shape does not allow. -/
theorem yieldRow_of_excess (ha : shapeAllows s.shape s.itemcnt) (hn : ¬ shapeAllows s.shape (s.itemcnt + 1)) :
    yieldRow s = raise .protocolError s.line s := by
  cases hsh : s.shape with
  | zero => exact yieldRow_of_zero hsh
  | one =>
    simp only [hsh, shapeAllows] at ha hn
    exact yieldRow_of_second hsh (by omega)
  | many => simp [hsh, shapeAllows] at hn

theorem raisesFromDec_of_excess {it : Item} (hs : s.seq = .dec)
    (hy : lineYields s.params.hexLowerOk s.gen s.gsel s.line it) (ha : shapeAllows s.shape s.itemcnt)
    (hn : ¬ shapeAllows s.shape (s.itemcnt + 1)) : RaisesFromDec s .protocolError := by
  obtain ⟨m, evs, hm, hev, htk, d⟩ := drives_decoded hs rfl hy
  refine ⟨by decide, m + 1, xorfold it.payload, lenCount it.payload.length, it.payload, it, evs, by omega, hev, htk,
    d.trans (.one (by simp) (by simp [waits]) ?_)⟩
  exact (seqRow_yield rfl).trans (congrArg Host.Outcome.next (yieldRow_of_excess ha hn))

/-- R155, R157: a line in READ that makes the exchange raise from DEC on. -/
theorem Reading.raises_of_line {l : Bytes} {k : Kind} (h : Reading s cs rest) (hs : s.seq = .read) (hl : lineOk l = true)
    (hS : s.rxbuf ++ chunkBytes cs = l ++ left)
    (hdec : ∀ r rx hist, RaisesFromDec { s with rxbuf := r, line := l, seq := .dec, rx := rx, hist := hist } k) :
    RaisesWithin 4 s cs k l := by
  obtain ⟨cs1, cs2, r, rfl, rfl, hbuf, d₁⟩ := h.drives_unit (u := .line l) (g := fun w => { w with line := l, seq := .dec })
    hS (by rintro _ ⟨⟩; exact hl) (fun w hw => (lineUnitMeaning w l).1 (hw.trans hs))
  obtain ⟨hne, n, c, len, pay, item, evs, hn, hev, htk, d₂⟩ := hdec r (dataAnswers cs2 ++ rest)
    (s.hist ++ (dataAnswers cs1).map Event.read)
  have hA := (afterItems_taking (rest := rest) h hbuf (isDrainEvent_of_reads (dataAnswers cs1))).keeps c len l pay item hev
  refine ⟨hne, 1 + n, _, cs1, cs2, rest, _, _, by omega, ?_, rfl, by simp [htk], hS, hA, rfl⟩
  exact d₁.trans d₂

/-- R155 to R162: each of the five departures in READ. -/
theorem Reading.raises_in_loop {k : Kind} {text : Bytes} (h : Reading s cs rest) (hs : s.seq = .read)
    (ha : shapeAllows s.shape s.itemcnt)
    (hd : departsInLoop s.params.hexLowerOk s.gen s.gsel s.shape s.itemcnt (s.rxbuf ++ chunkBytes cs) rest k text) :
    RaisesWithin 4 s cs k text := by
  obtain ⟨left, hS, rfl, rfl⟩ | ⟨l, left, hS, hl, hno, rfl, rfl⟩ | ⟨l, left, p, hS, hl, hp, hg, hv, rfl, rfl⟩
    | ⟨l, left, it, hS, hy, hn, rfl, rfl⟩ | ⟨hf, rfl⟩ := hd
  · exact (h.raises_unexpected (u := .ready) (.inr ⟨hs, rfl⟩) hS (by simp)).within h
  · exact h.raises_of_line hs hl hS fun _ _ _ => raisesFromDec_of_no_frame rfl hno
  · exact h.raises_of_line hs hl hS fun _ _ _ => raisesFromDec_of_miss rfl hp hg hv
  · exact h.raises_of_line hs hy.1 hS fun _ _ _ => raisesFromDec_of_excess rfl hy ha hn
  · exact (h.raises_failed_read hf).within h

/-- The matcher latched is the one presented, where one is asked. -/
theorem departsInLoop_latched {lower : Bool} {g g' : Matcher} {n : Nat} {k : Kind} {text : Bytes}
    (h : departsInLoop lower gen g shape n tail rest k text) :
    departsInLoop lower gen (if gen then g else g') shape n tail rest k text := by
  obtain h | h | ⟨l, left, p, hS, hl, hp, rfl, h⟩ | ⟨l, left, it, hS, hy, h⟩ | h := h
  · exact .inl h
  · exact .inr (.inl h)
  · exact .inr (.inr (.inl ⟨l, left, p, hS, hl, hp, rfl, h⟩))
  · exact .inr (.inr (.inr (.inl ⟨l, left, it, hS, lineYields_latched hy, h⟩)))
  · exact .inr (.inr (.inr (.inr h)))

/-- Settles O40: the stretches up to the last line, then the departure. -/
theorem exchangeFailsAtTheFirstDeparture : Obligations.ExchangeFailsAtTheFirstDeparture := by
  intro s i shape gen cmd k ks cs rest ls its tail kind text hi hb hv ht hk hrx hfit hy ha hS hd
  have h : Answered s shape gen cmd ks cs rest ls its tail := ⟨hv, ⟨k, ht, hk⟩, hrx, hfit, hy, ha, hS⟩
  obtain ⟨m, t, cs1, cs2, evs, hm, d, hcs, htk, hA, hitems, hcnt⟩ := h.drives
  obtain ⟨hq, -, hp, hgen, hgsel, hshape⟩ := hA.frame
  obtain ⟨hne, n, u, cs1', cs2', rest', left, evs', hn, d', hcs', htk', hS', hA', hcnt'⟩ :=
    (hA.reading rfl).raises_in_loop (k := kind) (text := text) hq (by rw [hshape, hcnt]; exact ha)
      (by rw [hA.stream, hp, hgen, hgsel, hshape, hcnt]; exact departsInLoop_latched hd)
  have hAll := hA.trans hA'
  have hcnt : u.itemcnt = its.length := hcnt'.trans hcnt
  refine ⟨cs1 ++ cs1', cs2', evs ++ evs', if s.params.flushClearsRxbuf then [] else u.rxbuf, u.csum, u.len, u.line, u.pay,
    u.item, by simp [hcs, hcs'], hAll.drain, by simp [htk, htk'], fun hf => if_pos hf, fun hf => ?_, ?_⟩
  · rw [if_neg (by simp [hf])]
    refine List.append_cancel_right (bs := chunkBytes cs2') ?_
    calc s.rxbuf ++ chunkBytes (cs1 ++ cs1') ++ chunkBytes cs2' = s.rxbuf ++ chunkBytes cs := by simp [hcs, hcs']
      _ = Config.ready :: (ls.flatten ++ (text ++ left)) := by rw [hS, ← hS', hA.stream]
      _ = Config.ready :: (ls.flatten ++ text ++ u.rxbuf) ++ chunkBytes cs2' := by simp [← hA'.stream]
  · rw [exec_of_raise hi hb (d.trans d') (by have := h.rows_le; omega) hne, hAll.hist_eq, List.append_assoc,
      answerStarted_hist_append, hAll.eq, hcnt, hb]
    rfl

end Sys2Proof.Machine
end

section
/-! PROOFS. Every exchange that runs from idle: what it has recorded in each state of SEQ, how far it can still run, and so
that it ends complete or blocked and with the history of R166. -/

namespace Sys2Proof.Machine

variable {s t u : State} {h : List Event} {cmd : Bytes}

/-! ### How far an exchange can run -/

/-- The bytes the block holds or is still to be brought. -/
def pendingBytes (s : State) : Nat :=
  s.rxbuf.length + answerBytes s.rx

/-- The most rows an exchange can run from this state of SEQ without taking a unit; it is never in EXEC. -/
def rowsToGo : Seq → Nat
  | .idle => 0
  | .flush | .exec => 1
  | .read | .waitReady => 2
  | .yield | .tx => 3
  | .matchRec | .enc => 4
  | .dec => 5

theorem idle_of_rowsToGo {q : Seq} (h : rowsToGo q = 0) : q = .idle := by
  cases q <;> simp [rowsToGo] at h ⊢

/-- Log 26: a bound on the rows still to run; a unit takes at least one byte and leads at most to DEC. -/
def rowsLeft (s : State) : Nat :=
  4 * pendingBytes s + rowsToGo s.seq

/-- What a row does to the bound: the exchange is complete, or blocked, or has fewer rows left. -/
def Advances (s t : State) : Prop :=
  t.seq = .idle ∨ waits t = true ∨ rowsLeft t < rowsLeft s

/-- A row that takes no byte and goes on in a state nearer the end. -/
theorem advances_of_rowsToGo (hp : pendingBytes t = pendingBytes s) (hq : rowsToGo t.seq < rowsToGo s.seq) : Advances s t :=
  .inr (.inr (by simp only [rowsLeft]; omega))

/-- R152: what every row keeps, Drain keeps, and rows enough end it complete or blocked. -/
theorem drive_ends {P : State → Prop}
    (row : ∀ s t, P s → s.seq ≠ .idle → waits s = false → seqRow s = .next t → P t ∧ Advances s t)
    (n : Nat) (hs : P s) (hn : s.seq = .idle ∨ waits s = true ∨ rowsLeft s ≤ n) (hd : drive n s = .next t) :
    P t ∧ (t.seq = .idle ∨ waits t = true) := by
  induction n generalizing s with
  | zero =>
    cases hd
    obtain hi | hw | hn := hn
    · exact ⟨hs, .inl hi⟩
    · exact ⟨hs, .inr hw⟩
    · exact ⟨hs, .inl (idle_of_rowsToGo (by simp only [rowsLeft] at hn; omega))⟩
  | succ n ih =>
    by_cases hstop : s.seq = .idle ∨ waits s = true
    · rw [drive, if_pos hstop] at hd
      cases hd
      exact ⟨hs, hstop⟩
    · rw [drive, if_neg hstop] at hd
      obtain ⟨hi, hw⟩ := not_or.mp hstop
      split at hd
      · rename_i u hu
        obtain ⟨hP, hadv⟩ := row s u hs hi (by simpa using hw) hu
        refine ih hP (hadv.imp_right (Or.imp_right fun hlt => ?_)) hd
        have := (hn.resolve_left hi).resolve_left hw
        omega
      · cases hd
      · cases hd

/-! ### What an exchange has recorded -/

/-- R165: the states from the command sent to the outcome. -/
def draining (q : Seq) : Prop :=
  q = .waitReady ∨ q = .read ∨ q = .dec ∨ q = .matchRec ∨ q = .yield

theorem rowsToGo_of_draining {q : Seq} (h : draining q) : 2 ≤ rowsToGo q := by
  obtain rfl | rfl | rfl | rfl | rfl := h <;> decide

/-- R166: the command frame in full, then reads and matcher calls. -/
def Drained (h : List Event) (cmd : Bytes) (hist : List Event) : Prop :=
  ∃ evs, hist = h ++ .write (frameOf cmd) (frameOf cmd).length :: evs ∧ ∀ e ∈ evs, isDrainEvent e

theorem Drained.append {hist evs : List Event} (hd : Drained h cmd hist) (hevs : ∀ e ∈ evs, isDrainEvent e) :
    Drained h cmd (hist ++ evs) := by
  obtain ⟨evs₀, rfl, h₀⟩ := hd
  exact ⟨evs₀ ++ evs, by simp, fun e he => (List.mem_append.mp he).elim (h₀ e) (hevs e)⟩

/-- R166: what an exchange has recorded when it raises this kind. -/
inductive FailedWith (h : List Event) (cmd : Bytes) : Kind → List Event → Prop where
  | encode : FailedWith h cmd .encodeError h
  | write (n : Nat) (hn : n < (frameOf cmd).length) : FailedWith h cmd .writeError (h ++ [.write (frameOf cmd) n])
  | drain (k : Kind) (hist : List Event) (hk : k ≠ .ok ∧ k ≠ .encodeError ∧ k ≠ .writeError)
      (hd : Drained h cmd hist) : FailedWith h cmd k hist

/-- R165, R166: an exchange with this command since the history `h`, by its state of SEQ. -/
inductive Exchanging (h : List Event) (cmd : Bytes) (s : State) : Prop where
  | encoding (hs : s.seq = .enc) (hb : s.busy = true) (ho : s.opd = cmd) (hh : s.hist = h)
  | sending (hs : s.seq = .tx) (hb : s.busy = true) (hf : s.frm = frameOf cmd) (hh : s.hist = h)
  | drains (hs : draining s.seq) (hb : s.busy = true) (hd : Drained h cmd s.hist)
  | raised (hs : s.seq = .flush) (hb : s.busy = true) (hf : FailedWith h cmd s.raised.kind s.hist)
  | failed (hist : List Event) (hc : completed s) (hf : FailedWith h cmd s.kind hist) (hh : s.hist = hist ++ [.flush])
  | succeeded (hc : completed s) (hk : s.kind = .ok) (hd : Drained h cmd s.hist)

/-- One row of an exchange: what it leaves recorded, and how far it can still run. -/
def KeepsExchanging (h : List Event) (cmd : Bytes) (s t : State) : Prop :=
  Exchanging h cmd t ∧ Advances s t

/-! ### The rows -/

theorem exchanging_encRow (hs : s.seq = .enc) (hb : s.busy = true) (ho : s.opd = cmd) (hh : s.hist = h) :
    KeepsExchanging h cmd s (encRow s) := by
  by_cases hv : validPayload s.opd
  · rw [encRow_of_valid hv]
    exact ⟨.sending rfl hb (congrArg frameOf ho) hh, advances_of_rowsToGo rfl (by simp [hs, rowsToGo])⟩
  · rw [encRow_of_invalid hv]
    refine ⟨.raised rfl hb ?_, advances_of_rowsToGo rfl (by simp [hs, rowsToGo])⟩
    rw [raise_hist, hh]
    exact .encode

theorem exchanging_txRow (hs : s.seq = .tx) (hb : s.busy = true) (hf : s.frm = frameOf cmd) (hh : s.hist = h)
    (hw : waits s = false) : KeepsExchanging h cmd s (txRow s) := by
  obtain ⟨ht, -⟩ | ⟨k, ks, ht, -⟩ := transportWrite_cases s.frm s
  · simp [waits, hs, ht] at hw
  by_cases hk : s.frm.length ≤ k
  · rw [txRow_of_all ht hk]
    exact ⟨.drains (.inl rfl) hb ⟨[], by rw [hh, hf], by simp⟩, advances_of_rowsToGo rfl (by simp [hs, rowsToGo])⟩
  · rw [txRow_of_short ht (by omega)]
    refine ⟨.raised rfl hb ?_, advances_of_rowsToGo rfl (by simp [hs, rowsToGo])⟩
    simp only [raise_raised, raise_hist, hf, hh]
    exact .write k (by rw [← hf]; omega)

/-- R203: the row FLUSH of an exchange. -/
theorem exchanging_errorExit (hf : FailedWith h cmd s.raised.kind s.hist) :
    KeepsExchanging h cmd s (errorExit s.raised s) :=
  ⟨.failed s.hist ⟨rfl, rfl, rfl⟩ hf rfl, .inl rfl⟩

/-- R166: a row of the drain that has recorded reads and matcher calls and goes on with the drain. -/
theorem exchanging_goes_on {evs : List Event} (hd : Drained h cmd s.hist) (hh : t.hist = s.hist ++ evs)
    (hevs : ∀ e ∈ evs, isDrainEvent e) (hq : draining t.seq) (hb : t.busy = true) (ha : Advances s t) :
    KeepsExchanging h cmd s t :=
  ⟨.drains hq hb (hh ▸ hd.append hevs), ha⟩

/-- R166: a row of the drain that has recorded reads and matcher calls and raises. -/
theorem exchanging_raise {k : Kind} {evs : List Event} (text : Bytes) (hq : draining s.seq) (hd : Drained h cmd s.hist)
    (hh : u.hist = s.hist ++ evs) (hevs : ∀ e ∈ evs, isDrainEvent e) (hb : u.busy = true)
    (hp : pendingBytes u ≤ pendingBytes s)
    (hk : k ≠ .ok ∧ k ≠ .encodeError ∧ k ≠ .writeError) :
    KeepsExchanging h cmd s (raise k text u) := by
  refine ⟨.raised rfl hb (.drain k _ hk (hh ▸ hd.append hevs)), .inr (.inr ?_)⟩
  have hrows := rowsToGo_of_draining hq
  have hleft : rowsLeft (raise k text u) = 4 * pendingBytes u + 1 := rfl
  rw [hleft, rowsLeft]
  omega

theorem exchanging_matchRow (hs : s.seq = .matchRec) (hb : s.busy = true) (hd : Drained h cmd s.hist) :
    KeepsExchanging h cmd s (matchRow s) := by
  cases hv : verdictOf s.gsel s.pay with
  | hit r =>
    rw [matchRow_of_hit hv]
    exact exchanging_goes_on hd rfl (by simp [isDrainEvent]) (by simp [draining]) hb
      (advances_of_rowsToGo rfl (by simp [hs, rowsToGo]))
  | miss =>
    rw [matchRow_of_miss hv]
    exact exchanging_raise s.line (by simp [hs, draining]) hd rfl (by simp [isDrainEvent]) hb le_rfl (by simp)

theorem exchanging_yieldRow (hs : s.seq = .yield) (hb : s.busy = true) (hd : Drained h cmd s.hist) :
    KeepsExchanging h cmd s (yieldRow s) := by
  have hraise : KeepsExchanging h cmd s (raise .protocolError s.line s) :=
    exchanging_raise s.line (by simp [hs, draining]) hd (List.append_nil _).symm (by simp) hb le_rfl (by simp)
  have hread (its : List Item) (n : Nat) : KeepsExchanging h cmd s { s with items := its, itemcnt := n, seq := .read } :=
    exchanging_goes_on hd (List.append_nil _).symm (by simp) (by simp [draining]) hb
      (advances_of_rowsToGo rfl (by simp [hs, rowsToGo]))
  cases hsh : s.shape with
  | zero => exact yieldRow_of_zero hsh ▸ hraise
  | one =>
    by_cases hn : s.itemcnt = 1
    · exact yieldRow_of_second hsh hn ▸ hraise
    · exact yieldRow_of_first hsh hn ▸ hread _ _
  | many => exact yieldRow_of_many hsh ▸ hread _ _

theorem exchanging_decRow (hs : s.seq = .dec) (hb : s.busy = true) (hd : Drained h cmd s.hist) (hrow : decRow s = .next t) :
    KeepsExchanging h cmd s t := by
  by_cases hf : ∃ p, decodeFrame s.params.hexLowerOk s.line = .ok p
  · obtain ⟨p, hp⟩ := hf
    rw [decRow_of_frame hp] at hrow
    cases hg : s.gen with
    | true =>
      obtain rfl := Host.Outcome.next.inj ((exec_frame_with_matcher p hs hg).symm.trans hrow)
      exact exchanging_goes_on hd (List.append_nil _).symm (by simp) (by simp [draining]) hb
        (advances_of_rowsToGo rfl (by simp [hs, rowsToGo]))
    | false =>
      obtain rfl := Host.Outcome.next.inj ((exec_frame_without_matcher p hs hg).symm.trans hrow)
      exact exchanging_goes_on hd (List.append_nil _).symm (by simp) (by simp [draining]) hb
        (advances_of_rowsToGo rfl (by simp [hs, rowsToGo]))
  · obtain ⟨c, n, hno⟩ := decRow_of_no_frame (fun p hp => hf ⟨p, hp⟩)
    obtain rfl := Host.Outcome.next.inj (hno.symm.trans hrow)
    exact exchanging_raise s.line (by simp [hs, draining]) hd (List.append_nil _).symm (by simp) hb le_rfl (by simp)

/-! ### The rows that read -/

/-- What the reads of one ReadUnit change of an exchange: bytes have come from the script to RXBUF, and they are recorded. -/
structure AfterReads (s u : State) (evs : List Event) : Prop where
  seq : u.seq = s.seq
  busy : u.busy = s.busy
  hist : u.hist = s.hist ++ evs
  drain : ∀ e ∈ evs, isDrainEvent e
  pending : pendingBytes u = pendingBytes s

theorem afterReads_afterFills {cs : List (Byte × Bytes)} {rest : List ReadAnswer} (hrx : s.rx = dataAnswers cs ++ rest) :
    AfterReads s (afterFills s cs rest) ((dataAnswers cs).map Event.read) where
  seq := rfl
  busy := rfl
  hist := rfl
  drain := isDrainEvent_of_reads _
  pending := by simp [pendingBytes, afterFills, hrx, answerBytes_dataAnswers, Nat.add_assoc]

theorem afterReads_afterFailure {cs : List (Byte × Bytes)} {a : ReadAnswer} {rest : List ReadAnswer} {k : Kind}
    (hrx : s.rx = dataAnswers cs ++ a :: rest) (hk : a = .timeout ∧ k = .timeoutError ∨ a = .eos ∧ k = .readError) :
    AfterReads s (afterFailure s cs a rest) ((dataAnswers cs ++ [a]).map Event.read) where
  seq := rfl
  busy := rfl
  hist := rfl
  drain := isDrainEvent_of_reads _
  pending := by
    have ha : answerBytes (a :: rest) = answerBytes rest := by obtain ⟨rfl, -⟩ | ⟨rfl, -⟩ := hk <;> rfl
    simp [pendingBytes, afterFailure, hrx, answerBytes_dataAnswers, ha, Nat.add_assoc]

/-- R132, R134: everything one ReadUnit of an exchange can come to. -/
theorem readRow_afterReads (hs : s.seq = .waitReady ∨ s.seq = .read) (hrow : readRow s = .next t) :
    ∃ u evs, AfterReads s u evs
      ∧ ((t = u ∧ waits u = true) ∨ (∃ k, (k = .timeoutError ∨ k = .readError) ∧ t = raise k [] u)
        ∨ ∃ unit left, cutUnit u.rxbuf = some (unit, left) ∧ unitMeaning unit u = .next t) := by
  obtain ⟨cs, rest, hrx, -, ⟨unit, left, hc, hf⟩ | ⟨a, k, rest', rfl, -, hk, hf⟩ | ⟨rfl, hc, hf⟩ | ⟨_, _, _, _, _, _, hf⟩⟩ :=
    fetchUnit_cases s.rx s
  all_goals rw [readRow, hf] at hrow
  · exact ⟨_, _, afterReads_afterFills hrx, .inr (.inr ⟨unit, left, hc, hrow⟩)⟩
  · cases hrow
    rw [← afterFailure_eq, readFailed_of_exchange (s := afterFailure s cs a rest') k hs]
    refine ⟨_, _, afterReads_afterFailure hrx hk, .inr (.inl ⟨k, ?_, rfl⟩)⟩
    exact hk.imp And.right And.right
  · cases hrow
    refine ⟨_, _, afterReads_afterFills hrx, .inl ⟨rfl, ?_⟩⟩
    obtain hs | hs := hs <;> simp [waits, afterFills, hs, hc]
  · cases hrow

/-- R132: a unit that leaves RXBUF leaves fewer bytes. -/
theorem pendingBytes_dropRx_lt {unit : RxUnit} {left : Bytes} (hc : cutUnit u.rxbuf = some (unit, left)) :
    pendingBytes (dropRx unit.bytes.length u) < pendingBytes u := by
  have hpos := unit_bytes_pos _ _ _ hc
  have hlen := congrArg List.length ((cutUnit_eq_some_iff _ _ _).mp hc).1
  simp only [List.length_append] at hlen
  simp only [pendingBytes, dropRx_rxbuf, dropRx_rx, List.length_drop]
  omega

/-- Log 26: the unit taken pays for the rows up to the next one. -/
theorem rowsLeft_lt_of_unit (hs : s.seq = .waitReady ∨ s.seq = .read) (hp : pendingBytes t < pendingBytes s)
    (hq : rowsToGo t.seq ≤ 5) : rowsLeft t < rowsLeft s := by
  have : rowsToGo s.seq = 2 := by obtain hs | hs := hs <;> simp [hs, rowsToGo]
  simp only [rowsLeft]
  omega

theorem exchanging_readRow (hs : s.seq = .waitReady ∨ s.seq = .read) (hb : s.busy = true) (hd : Drained h cmd s.hist)
    (hrow : readRow s = .next t) : KeepsExchanging h cmd s t := by
  have hq : draining s.seq := hs.imp_right .inl
  obtain ⟨u, evs, ⟨hseq, hbusy, hhist, hevs, hp⟩, ⟨rfl, hw⟩ | ⟨k, hk, rfl⟩ | ⟨unit, left, hc, hm⟩⟩ :=
    readRow_afterReads hs hrow
  · exact exchanging_goes_on hd hhist hevs (hseq ▸ hq) (hbusy.trans hb) (.inr (.inl hw))
  · exact exchanging_raise [] hq hd hhist hevs (hbusy.trans hb) hp.le (by obtain rfl | rfl := hk <;> simp)
  · have hlt := pendingBytes_dropRx_lt hc
    obtain rfl | ⟨hu, rfl⟩ | ⟨hu, rfl⟩ | ⟨l, -, hu, rfl⟩ := unitMeaning_exchange (hseq ▸ hs) hm
    · exact exchanging_raise unit.bytes hq hd hhist hevs (hbusy.trans hb) (hp ▸ hlt.le) (by simp)
    · refine exchanging_goes_on hd hhist hevs (.inr (.inl rfl)) (hbusy.trans hb) (.inr (.inr ?_))
      exact rowsLeft_lt_of_unit hs (hlt.trans_eq hp) (by simp [rowsToGo])
    · exact ⟨.succeeded ⟨rfl, rfl, rfl⟩ rfl (hhist ▸ hd.append hevs), .inl rfl⟩
    · refine exchanging_goes_on hd hhist hevs (.inr (.inr (.inl rfl))) (hbusy.trans hb) (.inr (.inr ?_))
      exact rowsLeft_lt_of_unit hs (hlt.trans_eq hp) (by simp [rowsToGo])

/-- R165: every row of an exchange. -/
theorem Exchanging.row (hx : Exchanging h cmd s) (hi : s.seq ≠ .idle) (hw : waits s = false)
    (hrow : seqRow s = .next t) : KeepsExchanging h cmd s t := by
  cases hx with
  | encoding hs hb ho hh =>
    obtain rfl := Host.Outcome.next.inj ((seqRow_enc hs).symm.trans hrow)
    exact exchanging_encRow hs hb ho hh
  | sending hs hb hf hh =>
    obtain rfl := Host.Outcome.next.inj ((seqRow_tx hs).symm.trans hrow)
    exact exchanging_txRow hs hb hf hh hw
  | drains hs hb hd =>
    obtain hs | hs | hs | hs | hs := hs
    · exact exchanging_readRow (.inl hs) hb hd (by simpa [seqRow, hs] using hrow)
    · exact exchanging_readRow (.inr hs) hb hd (by simpa [seqRow, hs] using hrow)
    · exact exchanging_decRow hs hb hd ((seqRow_dec hs).symm.trans hrow)
    · obtain rfl := Host.Outcome.next.inj ((seqRow_matchRec hs).symm.trans hrow)
      exact exchanging_matchRow hs hb hd
    · obtain rfl := Host.Outcome.next.inj ((seqRow_yield hs).symm.trans hrow)
      exact exchanging_yieldRow hs hb hd
  | raised hs hb hf =>
    have hflush : seqRow s = .next (errorExit s.raised s) := by simp [seqRow, hs]
    obtain rfl := Host.Outcome.next.inj (hflush.symm.trans hrow)
    exact exchanging_errorExit hf
  | failed _ hc => exact absurd hc.2.2 hi
  | succeeded hc => exact absurd hc.2.2 hi

/-! ### The exchange from idle -/

variable {i : Instr} {shape : Shape} {gen : Bool}

theorem exec_exchange_ends (hi : isExchange i shape gen cmd) (hb : s.busy = false) (hexec : exec i s = .next t) :
    Exchanging s.hist cmd t ∧ (t.seq = .idle ∨ waits t = true) := by
  rw [(exec_exchange hi hb).1] at hexec
  refine drive_ends (s := acceptExchange shape gen cmd s) (fun _ _ => Exchanging.row) (rowBound s)
    (.encoding rfl rfl rfl rfl) (.inr (.inr ?_)) hexec
  simp only [rowsLeft, pendingBytes, rowBound, acceptExchange_rxbuf, acceptExchange_rx, acceptExchange_seq, rowsToGo]
  omega

theorem Exchanging.busy_of_ne_idle (hx : Exchanging h cmd s) (hi : s.seq ≠ .idle) : s.busy = true := by
  cases hx with
  | encoding _ hb | sending _ hb | drains _ hb | raised _ hb => exact hb
  | failed _ hc | succeeded hc => exact absurd hc.2.2 hi

theorem Exchanging.completed_of_idle (hx : Exchanging h cmd s) (hi : s.seq = .idle) : completed s := by
  cases hx with
  | encoding hs | sending hs | raised hs => simp [hs] at hi
  | drains hs => simp [draining, hi] at hs
  | failed _ hc | succeeded hc => exact hc

/-- Settles O41: an exchange that ends is complete in IDLE, and one that waits is busy. -/
theorem exchangeEndsOrBlocks : Obligations.ExchangeEndsOrBlocks := by
  intro s t i shape gen cmd hi hb hexec
  obtain ⟨hx, hend⟩ := exec_exchange_ends hi hb hexec
  by_cases hidle : t.seq = .idle
  · exact .inl (hx.completed_of_idle hidle)
  · exact .inr ⟨hx.busy_of_ne_idle hidle, hend.resolve_left hidle⟩

/-- Settles O42: what is recorded is read off the way the exchange ended. -/
theorem exchangeHistoryShape : Obligations.ExchangeHistoryShape := by
  intro s t i shape gen cmd hi hb hexec hidle
  obtain ⟨hx, -⟩ := exec_exchange_ends hi hb hexec
  cases hx with
  | encoding _ hbusy | sending _ hbusy | drains _ hbusy | raised _ hbusy => simp [hidle] at hbusy
  | succeeded _ hk hd =>
    obtain ⟨evs, hh, hevs⟩ := hd
    exact ⟨_, hh, fun _ => ⟨evs, rfl, hevs⟩, by simp [hk], by simp [hk], by simp [hk]⟩
  | failed hist _ hf hh =>
    generalize t.kind = k at hf ⊢
    cases hf with
    | encode => exact ⟨_, hh, by simp, fun _ => rfl, by simp, by simp⟩
    | write n hn =>
      rw [List.append_assoc] at hh
      exact ⟨_, hh, by simp, by simp, fun _ => ⟨n, hn, rfl⟩, by simp⟩
    | drain _ _ hk hd =>
      obtain ⟨hok, hencode, hwrite⟩ := hk
      obtain ⟨evs, rfl, hevs⟩ := hd
      rw [List.append_assoc] at hh
      exact ⟨_, hh, fun h => absurd h hok, fun h => absurd h hencode, fun h => absurd h hwrite,
        fun _ _ _ => ⟨evs, rfl, hevs⟩⟩

end Sys2Proof.Machine
end

section
/-! PROOFS. The outcome of an operation: nothing is accepted while BUSY = 1, what completion and the error exit leave, and a
READ_UNIT that waits for the transport. -/

namespace Sys2Proof.Machine

variable {s : State}

/-! ### A busy block -/

/-- R209, log 23: a host operation given to a busy block only loses its word. -/
theorem exec_of_busy {i : Instr} (hb : s.busy = true) (hp : i.port = .host) : exec i s = .next (dropCommand s) := by
  cases i with
  | encode | decode | readUnit | writeUnit => simp [exec, execEncode, execDecode, execReadUnit, execWriteUnit, hb]
  | xchgZero | xchgOne | xchgMany => simp [exec, execXchgZero, execXchgOne, execXchgMany, exchange, hb]
  | ctlReady | ctlDone | line | frame => simp [Instr.port] at hp

/-- Settles O22: neither the host's write nor exec accepts an operation while BUSY = 1. -/
theorem busyBlockIgnoresOperationWords : Obligations.BusyBlockIgnoresOperationWords := by
  intro s hb
  exact ⟨fun i v opd g => by simp [csrWrite, hb], fun i hp => exec_of_busy hb hp⟩

/-! ### Completion and the error exit -/

/-- Settles O25: completion on either side of OK, and then the idle block. -/
theorem completionRecordsTheOutcome : Obligations.CompletionRecordsTheOutcome := by
  intro k text s
  refine ⟨fun hk => complete_of_error hk text s, ?_, fun hh => idleBlockDoesNothing _ rfl hh⟩
  rintro rfl
  exact complete_of_ok text s

theorem step_flush (hb : s.busy = true) (hs : s.seq = .flush) : step s = .next (errorExit s.raised s) := by
  simp [step_of_busy hb, seqRow, hs]

/-- Settles O18: the row is the flush, then completion with the error raised. -/
theorem errorExitFlushesThenReports : Obligations.ErrorExitFlushesThenReports := by
  intro s hb hs hk
  rw [step_flush hb hs, errorExit, complete_of_error hk]
  rfl

/-! ### The wait for the transport -/

/-- R131, R211: one ReadUnit on chunks that complete no unit takes them in and waits. -/
theorem readRow_of_no_unit {cs : List (Byte × Bytes)} (hrx : s.rx = dataAnswers cs)
    (hfit : rxbufFits s.params (s.rxbuf ++ chunkBytes cs).length = true) (hc : cutUnit (s.rxbuf ++ chunkBytes cs) = none) :
    readRow s = .next (afterFills s cs []) := by
  have hbuf : cutUnit (afterFills s cs s.rx).rxbuf = none := hc
  have hfetch : fetchUnit s.rx s = .waiting (afterFills s cs []) := by
    conv_lhs => rw [hrx, ← List.append_nil (dataAnswers cs), fetchUnit_no_unit cs [] s hfit hc]
    simp only [fetchUnit, hbuf]
    rfl
  rw [readRow, hfetch]

/-- Log 2: a step of a block that waits for a read leaves the state as it is. -/
theorem step_of_waiting_read (hr : s.readsUnit = true) (hrx : s.rx = []) (hc : cutUnit s.rxbuf = none)
    (hfit : rxbufFits s.params s.rxbuf.length = true) : step s = .next s := by
  have hsame : afterFills s [] s.rx = s := by simp [afterFills]
  rw [step_of_readsUnit hr, readRow_of_no_unit (cs := []) hrx (by simpa using hfit) (by simpa using hc), ← hrx, hsame]

/-- Settles O7: acceptance, then a ReadUnit that finds no unit, once and again. -/
theorem readUnitWaitsForTheTransport : Obligations.ReadUnitWaitsForTheTransport := by
  intro s cs hrx hfit hc
  constructor
  · intro hb
    rw [exec_readUnit_of_idle hb, readRow_of_no_unit (s := acceptStandalone .readUnit [] s) hrx hfit hc]
    have hwaits : waits (afterFills (acceptStandalone .readUnit [] s) cs []) = true := by simp [waits, afterFills, hc]
    exact ⟨_, rfl, rfl, rfl, rfl, rfl, rfl, rfl, rfl, ⟨rfl, hwaits⟩, step_of_waiting_read rfl rfl hc hfit⟩
  · intro hr
    rw [step_of_readsUnit hr, readRow_of_no_unit hrx hfit hc]
    rfl

end Sys2Proof.Machine
end

section
/-! PROOFS. The standalone operations: everything the row EXEC can come to, and what it leaves unchanged. -/

namespace Sys2Proof.Machine

variable {s t u : State}

/-! ### The row EXEC of each operation -/

/-- R132, R134, R204: everything the row EXEC of READ_UNIT can come to: having only read, it waits, fails or returns a
unit. -/
theorem readRow_exec_cases (hs : s.seq = .exec) (h : readRow s = .next t) :
    ∃ (buf : Bytes) (rx as : List ReadAnswer),
      let u := { s with rxbuf := buf, rx := rx, hist := s.hist ++ as.map Event.read }
      t = u ∨ (∃ k, (k = .timeoutError ∨ k = .readError) ∧ t = complete k [] u)
        ∨ ∃ unit : RxUnit, t = deliver unit.bytes unit.isLine u := by
  obtain ⟨cs, rest, -, -, ⟨unit, -, -, hf⟩ | ⟨a, k, rest', -, -, hk, hf⟩ | ⟨-, -, hf⟩ | ⟨-, -, -, -, -, -, hf⟩⟩ :=
    fetchUnit_cases s.rx s
  all_goals rw [readRow, hf] at h
  · obtain rfl | rfl := unitMeaning_exec (s := afterFills s cs rest) hs h
    · exact ⟨_, _, dataAnswers cs, .inl rfl⟩
    · exact ⟨_, _, dataAnswers cs, .inr (.inr ⟨unit, rfl⟩)⟩
  · cases h
    rw [← afterFailure_eq, readFailed_of_exec (s := afterFailure s cs a rest') k hs]
    exact ⟨_, _, dataAnswers cs ++ [a], .inr (.inl ⟨k, hk.imp And.right And.right, rfl⟩)⟩
  · cases h
    exact ⟨_, _, dataAnswers cs, .inl rfl⟩
  · cases h

/-- R135: everything the row EXEC of WRITE_UNIT can come to: it waits, or one write ends it. -/
theorem writeRow_cases (s : State) : writeRow s = s
    ∨ ∃ ks n k, (k = .ok ∨ k = .writeError)
      ∧ writeRow s = complete k [] { s with tx := ks, hist := s.hist ++ [.write s.opd n] } := by
  obtain ⟨ht, -⟩ | ⟨n, ks, ht, -⟩ := transportWrite_cases s.opd s
  · exact .inl (writeRow_of_no_answer ht)
  · by_cases hn : s.opd.length ≤ n
    · exact .inr ⟨ks, _, _, .inl rfl, writeRow_of_all ht hn⟩
    · exact .inr ⟨ks, _, _, .inr rfl, writeRow_of_short ht (by omega)⟩

/-- R112: everything ENCODE can come to: the scratch registers are written, and it completes. -/
theorem runEncode_cases (s : State) :
    (∃ f, runEncode s = deliver f false (encodeScratch s.opd s))
      ∨ runEncode s = complete .encodeError s.opd (encodeScratch s.opd s) := by
  cases h : encodePayload s.opd with
  | some f => exact .inl ⟨f, by simp [runEncode, h]⟩
  | none => exact .inr (by simp [runEncode, h])

/-- R114: everything DECODE can come to: the scratch registers are written, and it completes. -/
theorem runDecode_cases (s : State) : ∃ c n, let u := { s with csum := c, len := n }
    (∃ p, runDecode s = deliver p false u) ∨ runDecode s = complete .decodeError s.opd u := by
  by_cases h : ∃ p, decodeFrame s.params.hexLowerOk s.opd = .ok p
  · obtain ⟨p, hp⟩ := h
    exact ⟨_, _, .inl ⟨p, runDecode_of_frame hp⟩⟩
  · obtain ⟨c, n, hrun⟩ := runDecode_of_no_frame fun p hp => h ⟨p, hp⟩
    exact ⟨c, n, .inr hrun⟩

theorem execRow_readUnit (h : s.sop = .readUnit) : execRow s = readRow s := by
  simp [execRow, h]

theorem seqRow_exec (hs : s.seq = .exec) : seqRow s = execRow s := by
  simp [seqRow, hs]

/-! ### What a standalone operation leaves unchanged -/

/-- R204, R141: what a standalone operation leaves unchanged from `s` to `t`, and that it records no flush. -/
structure StandaloneFrame (op : Standalone) (s t : State) : Prop where
  kept : t.rxNext = s.rxNext ∧ t.params = s.params ∧ t.shape = s.shape ∧ t.gen = s.gen ∧ t.gsel = s.gsel
    ∧ ∃ new, t.hist = s.hist ++ new ∧ Event.flush ∉ new
  buffered : op ≠ .readUnit → t.rx = s.rx ∧ ∀ a, t.byteAt .rxbuf a = s.byteAt .rxbuf a
  silent : op = .encode ∨ op = .decode → t.hist = s.hist ∧ t.tx = s.tx

theorem StandaloneFrame.refl (op : Standalone) (s : State) : StandaloneFrame op s s :=
  ⟨⟨rfl, rfl, rfl, rfl, rfl, [], (List.append_nil _).symm, List.not_mem_nil⟩, fun _ => ⟨rfl, fun _ => rfl⟩,
    fun _ => ⟨rfl, rfl⟩⟩

/-- R200: completion is within the frame. -/
theorem StandaloneFrame.complete {op : Standalone} (h : StandaloneFrame op s u) (k : Kind) (text : Bytes) :
    StandaloneFrame op s (complete k text u) :=
  ⟨h.kept, h.buffered, h.silent⟩

theorem StandaloneFrame.deliver {op : Standalone} (h : StandaloneFrame op s u) (r : Bytes) (isLine : Bool) :
    StandaloneFrame op s (deliver r isLine u) :=
  ⟨h.kept, h.buffered, h.silent⟩

/-- R21, R22: the scratch registers are not in the frame. -/
theorem standaloneFrame_scratch (op : Standalone) (s : State) (c : Byte) (n : BitVec 7) :
    StandaloneFrame op s { s with csum := c, len := n } :=
  have h := StandaloneFrame.refl op s
  ⟨h.kept, h.buffered, h.silent⟩

theorem standaloneFrame_reads (s : State) (buf : Bytes) (rx as : List ReadAnswer) :
    StandaloneFrame .readUnit s { s with rxbuf := buf, rx := rx, hist := s.hist ++ as.map Event.read } :=
  ⟨⟨rfl, rfl, rfl, rfl, rfl, _, rfl, by simp⟩, by simp, by simp⟩

theorem standaloneFrame_write (s : State) (ks : List Nat) (bs : Bytes) (n : Nat) :
    StandaloneFrame .writeUnit s { s with tx := ks, hist := s.hist ++ [.write bs n] } :=
  ⟨⟨rfl, rfl, rfl, rfl, rfl, _, rfl, by simp⟩, fun _ => ⟨rfl, fun _ => rfl⟩, by simp⟩

theorem standaloneFrame_runEncode (s : State) : StandaloneFrame .encode s (runEncode s) := by
  have hscratch : StandaloneFrame .encode s (encodeScratch s.opd s) := standaloneFrame_scratch _ _ _ _
  obtain ⟨f, h⟩ | h := runEncode_cases s <;> rw [h]
  · exact hscratch.deliver _ _
  · exact hscratch.complete _ _

theorem standaloneFrame_runDecode (s : State) : StandaloneFrame .decode s (runDecode s) := by
  obtain ⟨c, n, ⟨p, h⟩ | h⟩ := runDecode_cases s <;> rw [h]
  · exact (standaloneFrame_scratch _ _ _ _).deliver _ _
  · exact (standaloneFrame_scratch _ _ _ _).complete _ _

theorem standaloneFrame_readRow (hs : s.seq = .exec) (h : readRow s = .next t) : StandaloneFrame .readUnit s t := by
  obtain ⟨buf, rx, as, rfl | ⟨k, -, rfl⟩ | ⟨unit, rfl⟩⟩ := readRow_exec_cases hs h
  · exact standaloneFrame_reads s buf rx as
  · exact (standaloneFrame_reads s buf rx as).complete _ _
  · exact (standaloneFrame_reads s buf rx as).deliver _ _

theorem standaloneFrame_writeRow (s : State) : StandaloneFrame .writeUnit s (writeRow s) := by
  obtain h | ⟨ks, n, k, -, h⟩ := writeRow_cases s <;> rw [h]
  · exact .refl _ s
  · exact (standaloneFrame_write s ks s.opd n).complete _ _

/-- R30, R204: the row EXEC, whichever operation it executes. -/
theorem standaloneFrame_execRow (hs : s.seq = .exec) (h : execRow s = .next t) : StandaloneFrame s.sop s t := by
  cases hop : s.sop with
  | encode =>
    obtain rfl := Host.Outcome.next.inj ((execRow_encode hop).symm.trans h)
    exact standaloneFrame_runEncode s
  | decode =>
    obtain rfl := Host.Outcome.next.inj ((execRow_decode hop).symm.trans h)
    exact standaloneFrame_runDecode s
  | readUnit => exact standaloneFrame_readRow hs ((execRow_readUnit hop).symm.trans h)
  | writeUnit =>
    obtain rfl := Host.Outcome.next.inj ((execRow_writeUnit hop).symm.trans h)
    exact standaloneFrame_writeRow s

/-- R30: a standalone operation given to an idle block is the row EXEC of the state its acceptance leaves. -/
theorem exec_standalone_eq_execRow {i : Instr} {op : Standalone} {opd : Bytes} (hi : isStandalone i op opd)
    (hb : s.busy = false) : exec i s = execRow (acceptStandalone op opd s) :=
  (exec_standalone hi hb).trans (seqRow_exec rfl)

/-- R165 (first row): acceptance of a standalone operation is within the frame. -/
theorem standaloneFrame_exec {i : Instr} {op : Standalone} {opd : Bytes} (hi : isStandalone i op opd)
    (hb : s.busy = false) (h : exec i s = .next t) : StandaloneFrame op s t := by
  rw [exec_standalone_eq_execRow hi hb] at h
  have hrow := standaloneFrame_execRow rfl h
  exact ⟨hrow.kept, hrow.buffered, hrow.silent⟩

/-- Settles O44: the frame of the operation, run from idle or resumed. -/
theorem standaloneOperationsDoNotFlush : Obligations.StandaloneOperationsDoNotFlush := by
  constructor
  · intro s t p i hb h
    have hframe {op : Standalone} {opd : Bytes} (hi : isStandalone i op opd) := standaloneFrame_exec hi hb h
    refine ⟨?_, ?_, ?_⟩
    · rintro (rfl | rfl | rfl | rfl)
      · exact (hframe (.inl ⟨rfl, rfl⟩)).kept
      · exact (hframe (.inr (.inl ⟨rfl, rfl⟩))).kept
      · exact (hframe (.inr (.inr (.inr ⟨rfl, rfl⟩)))).kept
      · exact (hframe (.inr (.inr (.inl ⟨rfl, rfl, rfl⟩)))).kept
    · rintro (rfl | rfl | rfl)
      · exact (hframe (.inl ⟨rfl, rfl⟩)).buffered (by decide)
      · exact (hframe (.inr (.inl ⟨rfl, rfl⟩))).buffered (by decide)
      · exact (hframe (.inr (.inr (.inr ⟨rfl, rfl⟩)))).buffered (by decide)
    · rintro (rfl | rfl)
      · exact (hframe (.inl ⟨rfl, rfl⟩)).silent (.inl rfl)
      · exact (hframe (.inr (.inl ⟨rfl, rfl⟩))).silent (.inr rfl)
  · intro s t hb hs h
    rw [step_exec hb hs] at h
    obtain ⟨hkept, hbuffered, hsilent⟩ := standaloneFrame_execRow hs h
    exact ⟨hkept, hbuffered, hsilent⟩

end Sys2Proof.Machine
end

section
/-! PROOFS. How every operation ends: the kinds it can end in, and what it reports. Both follow the rows an operation runs, from its
acceptance or from the middle of it. -/

namespace Sys2Proof.Machine

variable {s t u : State}

/-! ### The kinds an operation can end in -/

/-- R191: the kinds a standalone operation can end in. -/
def kindsOf : Standalone → List Kind
  | .encode => [.ok, .encodeError]
  | .decode => [.ok, .decodeError]
  | .readUnit => [.ok, .timeoutError, .readError]
  | .writeUnit => [.ok, .writeError]

theorem illegalOp_not_mem_kindsOf (op : Standalone) : Kind.illegalOp ∉ kindsOf op := by
  cases op <;> decide

/-- R191: the row EXEC ends with a kind of its operation, when it ends it. -/
theorem execRow_kind (hb : s.busy = true) (hs : s.seq = .exec) (h : execRow s = .next t) (hidle : t.busy = false) :
    t.kind ∈ kindsOf s.sop := by
  cases hop : s.sop with
  | encode =>
    obtain rfl := Host.Outcome.next.inj ((execRow_encode hop).symm.trans h)
    obtain ⟨f, hrun⟩ | hrun := runEncode_cases s <;> simp [hrun, kindsOf]
  | decode =>
    obtain rfl := Host.Outcome.next.inj ((execRow_decode hop).symm.trans h)
    obtain ⟨c, n, ⟨p, hrun⟩ | hrun⟩ := runDecode_cases s <;> simp [hrun, kindsOf]
  | readUnit =>
    obtain ⟨buf, rx, as, rfl | ⟨k, hk, rfl⟩ | ⟨unit, rfl⟩⟩ :=
      readRow_exec_cases hs ((execRow_readUnit hop).symm.trans h)
    · simp [hb] at hidle
    · simp [hk, kindsOf]
    · simp [kindsOf]
  | writeUnit =>
    obtain rfl := Host.Outcome.next.inj ((execRow_writeUnit hop).symm.trans h)
    obtain hrun | ⟨ks, n, k, hk, hrun⟩ := writeRow_cases s <;> rw [hrun] at hidle ⊢
    · simp [hb] at hidle
    · simp [hk, kindsOf]

theorem exec_standalone_kind {i : Instr} {op : Standalone} {opd : Bytes} (hi : isStandalone i op opd)
    (hb : s.busy = false) (h : exec i s = .next t) (hidle : t.busy = false) : t.kind ∈ kindsOf op := by
  rw [exec_standalone_eq_execRow hi hb] at h
  exact execRow_kind rfl rfl h hidle

/-- R191: an exchange is never in EXEC, and neither reports IllegalOp nor is about to. -/
structure NeverIllegal (s : State) : Prop where
  seq : s.seq ≠ .exec
  kind : s.kind ≠ .illegalOp
  raised : s.seq = .flush → s.raised.kind ≠ .illegalOp

theorem NeverIllegal.gathers (h : NeverIllegal s) (hg : Gathers s u) : NeverIllegal u := by
  cases hg
  exact ⟨h.seq, h.kind, h.raised⟩

/-- R190, R191: every kind a row of an exchange raises is one of the six error kinds. -/
theorem NeverIllegal.decides (h : NeverIllegal u) (hd : Decides u t) : NeverIllegal t := by
  cases hd with
  | waits => exact h
  | raises k text _ hk => exact ⟨by simp, h.kind, fun _ => hk.2⟩
  | fails k text hs => exact absurd hs h.seq
  | succeeds => exact ⟨by simp, by simp, by simp⟩
  | exits hs => exact ⟨by simp, h.raised hs, by simp⟩
  | encodes | sends | starts | keeps | asks | passes | hits | acceptsOne | acceptsNext => exact ⟨by simp, h.kind, by simp⟩

theorem NeverIllegal.rowStep (h : NeverIllegal s) (hr : RowStep s t) : NeverIllegal t := by
  obtain ⟨u, hg, hd⟩ := hr
  exact (h.gathers hg).decides hd

/-- R88: an instruction of the host port is a standalone operation or an exchange. -/
theorem operation_of_port_host {i : Instr} (hp : i.port = .host) :
    (∃ op opd, isStandalone i op opd) ∨ ∃ shape gen cmd, isExchange i shape gen cmd := by
  obtain ⟨op, opd, hi, -⟩ | ⟨shape, gen, cmd, hi, -⟩ | ⟨hn, -⟩ := acceptOperation_cases i State.reset
  · exact .inl ⟨op, opd, hi⟩
  · exact .inr ⟨shape, gen, cmd, hi⟩
  · exact absurd hp hn

/-- R89, R191: only a reserved word ends in IllegalOp. -/
theorem exec_host_kind {i : Instr} (hp : i.port = .host) (hb : s.busy = false) (h : exec i s = .next t)
    (hidle : t.busy = false) : t.kind ≠ .illegalOp := by
  obtain ⟨op, opd, hi⟩ | ⟨shape, gen, cmd, hi⟩ := operation_of_port_host hp
  · intro hk
    exact illegalOp_not_mem_kindsOf op (hk ▸ exec_standalone_kind hi hb h hidle)
  · rw [(exec_exchange hi hb).1] at h
    have haccept : NeverIllegal (acceptExchange shape gen cmd s) := ⟨by simp, by simp, by simp⟩
    exact (drive_induction (fun _ _ hu hr => hu.rowStep hr) _ haccept h).kind

/-- R191: a step that ends an operation accepted earlier. -/
theorem step_kind (hinv : s.Inv) (hb : s.busy = true) (h : step s = .next t) (hidle : t.busy = false) :
    t.kind ≠ .illegalOp ∧ (s.seq = .exec → t.kind ∈ kindsOf s.sop) := by
  by_cases hs : s.seq = .exec
  · rw [step_exec hb hs] at h
    have hkind := execRow_kind hb hs h hidle
    exact ⟨fun hk => illegalOp_not_mem_kindsOf s.sop (hk ▸ hkind), fun _ => hkind⟩
  · rw [step_of_busy hb] at h
    obtain ⟨-, hok, -⟩ := hinv.running hb
    have hstart : NeverIllegal s := ⟨hs, by simp [hok], fun hf => (hinv.raisedOk hf).2⟩
    exact ⟨(hstart.rowStep (rowStep_of_seqRow h)).kind, fun hx => absurd hx hs⟩

/-- Settles O45: the table of kinds, operation by operation. -/
theorem kindsEachOperationCanEndIn : Obligations.KindsEachOperationCanEndIn := by
  constructor
  · intro s t p i hb h hidle
    refine ⟨?_, ?_, ?_, ?_, fun hp => exec_host_kind hp hb h hidle⟩
    · rintro rfl
      simpa [kindsOf] using exec_standalone_kind (.inl ⟨rfl, rfl⟩) hb h hidle
    · rintro rfl
      simpa [kindsOf] using exec_standalone_kind (.inr (.inl ⟨rfl, rfl⟩)) hb h hidle
    · rintro rfl
      simpa [kindsOf] using exec_standalone_kind (.inr (.inr (.inl ⟨rfl, rfl, rfl⟩))) hb h hidle
    · rintro rfl
      simpa [kindsOf] using exec_standalone_kind (.inr (.inr (.inr ⟨rfl, rfl⟩))) hb h hidle
  · intro s t hinv hb h hidle
    obtain ⟨hlegal, hkind⟩ := step_kind hinv hb h hidle
    refine ⟨hlegal, fun hs hop => ?_, fun hs hop => ?_, fun hs hop => ?_, fun hs hop => ?_⟩ <;>
      simpa [hop, kindsOf] using hkind hs

/-! ### What a completed operation reports -/

/-- R200, R150, R234: the outcome of a completed operation: ERR tells the kind, an error has left no result, success no
text. -/
structure Reported (t : State) : Prop where
  doneF : t.doneF = true
  idle : t.seq = .idle
  err : t.err = true ↔ t.kind ≠ .ok
  voided : t.kind ≠ .ok → t.res = [] ∧ t.items = [] ∧ t.resultPresent = false ∧ t.ukind = false
  noText : t.kind = .ok → t.errtext = []

theorem reported_complete (k : Kind) (text : Bytes) (u : State) : Reported (complete k text u) where
  doneF := rfl
  idle := rfl
  err := by simp
  voided := fun hk : k ≠ .ok => by simp [hk]
  noText := fun hk : k = .ok => by simp [hk]

/-- R200: everything a row can decide about the operation: it waits, completes, or goes on. -/
theorem Decides.completion_cases (h : Decides u t) :
    t = u ∨ (∃ k text v, t = complete k text v) ∨ (u.seq ≠ .idle ∧ t.busy = u.busy) := by
  cases h with
  | waits => exact .inl rfl
  | raises _ _ hs => exact .inr (.inr ⟨hs, rfl⟩)
  | fails | succeeds | exits => exact .inr (.inl ⟨_, _, _, rfl⟩)
  | encodes _ hs | sends hs | starts hs | keeps _ hs | asks _ hs | passes _ hs | hits _ hs | acceptsOne hs
  | acceptsNext hs => exact .inr (.inr ⟨by simp [hs], rfl⟩)

/-- R200: an operation in progress, or one that has completed and reported its outcome. -/
def RunningOrReported (s : State) : Prop :=
  s.busy = false → Reported s

theorem runningOrReported_of_busy (hb : s.busy = true) : RunningOrReported s := by
  simp [RunningOrReported, hb]

theorem RunningOrReported.gathers (h : RunningOrReported s) (hg : Gathers s u) : RunningOrReported u := by
  cases hg
  intro hb
  obtain ⟨hdone, hidle, herr, hvoided, htext⟩ := h hb
  exact ⟨hdone, hidle, herr, hvoided, htext⟩

/-- R200: every operation ends by completion. -/
theorem RunningOrReported.rowStep (h : RunningOrReported s) (hr : RowStep s t) : RunningOrReported t := by
  obtain ⟨u, hg, hd⟩ := hr
  have hu := h.gathers hg
  obtain rfl | ⟨k, text, v, rfl⟩ | ⟨hs, hbusy⟩ := hd.completion_cases
  · exact hu
  · exact fun _ => reported_complete k text v
  · exact fun hb => absurd (hu (hbusy.symm.trans hb)).idle hs

/-- R200: a host operation given to an idle block is in progress or has reported its outcome. -/
theorem exec_host_reported {i : Instr} (hp : i.port = .host) (hb : s.busy = false) (h : exec i s = .next t) :
    RunningOrReported t := by
  obtain ⟨op, opd, hi⟩ | ⟨shape, gen, cmd, hi⟩ := operation_of_port_host hp
  · rw [exec_standalone hi hb] at h
    exact (runningOrReported_of_busy rfl).rowStep (rowStep_of_seqRow h)
  · rw [(exec_exchange hi hb).1] at h
    exact drive_induction (fun _ _ hu hr => hu.rowStep hr) _ (runningOrReported_of_busy rfl) h

/-- Settles O46: whatever step the operation ends in, it ends by completion. -/
theorem errorVoidsTheResult : Obligations.ErrorVoidsTheResult := by
  intro s t hrun hidle
  have hreported : RunningOrReported t := by
    obtain ⟨hb, i, hp, h⟩ | ⟨hb, h⟩ := hrun
    · exact exec_host_reported hp hb h
    · rw [step_of_busy hb] at h
      exact (runningOrReported_of_busy hb).rowStep (rowStep_of_seqRow h)
  obtain ⟨hdone, hseq, herr, hvoided, htext⟩ := hreported hidle
  exact ⟨hdone, hseq, herr, hvoided, htext⟩

end Sys2Proof.Machine
end

section
/-! PROOFS. What the block sends: a command frame holds no control byte, and LF only at its end; of the rows of the
sequencer only TX and the WRITE_UNIT of EXEC add to the TX stream. -/

namespace Sys2Proof

/-! ### The bytes of a command frame -/

/-- R5: a byte that is neither a control byte nor LF: what a frame is made of before its last byte. -/
def plainByte (b : Byte) : Prop :=
  b ≠ Config.ready ∧ b ≠ Config.done ∧ b ≠ Config.lf

theorem plainByte_of_ishex : ∀ b : Byte, ishex false b = true → plainByte b := by
  unfold plainByte
  decide

theorem plainByte_of_printable {b : Byte} (h : 0x20#8 ≤ b) : plainByte b := by
  refine ⟨?_, ?_, ?_⟩ <;> rintro rfl <;> exact absurd h (by decide)

/-- R80: the frame of a payload without its LF. -/
def frameBody (p : Bytes) : Bytes :=
  Config.sof :: (p ++ [Config.sep, hexhi (xorfold p), hexlo (xorfold p), Config.cr])

theorem frameOf_eq_body (p : Bytes) : frameOf p = frameBody p ++ [Config.lf] := by
  simp [frameOf, frameBody]

end Sys2Proof

namespace Sys2Proof.Machine

variable {s t : State} {h k : List Event} {cmd : Bytes}

/-- R112, R153: the payload Encode accepts and the digits it writes are printable. -/
theorem plainByte_of_mem_frameBody {b : Byte} (hv : validPayload cmd) (hb : b ∈ frameBody cmd) : plainByte b := by
  obtain ⟨-, -, hprint⟩ := hv
  obtain ⟨hhi, hlo, -⟩ := hex_digits_read_back false (xorfold cmd)
  simp only [frameBody, List.mem_cons, List.mem_append, List.not_mem_nil, or_false] at hb
  obtain rfl | hp | rfl | rfl | rfl | rfl := hb
  · exact plainByte_of_printable (by decide)
  · exact plainByte_of_printable (hprint b hp).1
  · exact plainByte_of_printable (by decide)
  · exact plainByte_of_ishex _ hhi
  · exact plainByte_of_ishex _ hlo
  · exact ⟨by decide, by decide, by decide⟩

/-- R232: the bytes `sent` are a beginning of the frame of this command, with no control byte, and LF only as the last byte
of the whole frame. -/
def FramePart (cmd sent : Bytes) : Prop :=
  sent <+: frameOf cmd ∧ 0x11#8 ∉ sent ∧ 0x13#8 ∉ sent
    ∧ (0x0A#8 ∈ sent → sent = frameOf cmd ∧ 0x0A#8 ∉ sent.dropLast)

theorem framePart_nil (cmd : Bytes) : FramePart cmd [] :=
  ⟨List.nil_prefix, by simp, by simp, by simp⟩

/-- R232: a beginning of the frame is cut inside its body or is the frame in full. -/
theorem framePart_of_prefix {sent : Bytes} (hv : validPayload cmd) (hp : sent <+: frameOf cmd) : FramePart cmd sent := by
  have hbody : ∀ b ∈ frameBody cmd, plainByte b := fun b => plainByte_of_mem_frameBody hv
  have hready : 0x11#8 ∉ frameBody cmd := fun hb => (hbody _ hb).1 rfl
  have hdone : 0x13#8 ∉ frameBody cmd := fun hb => (hbody _ hb).2.1 rfl
  have hlf : 0x0A#8 ∉ frameBody cmd := fun hb => (hbody _ hb).2.2 rfl
  refine ⟨hp, ?_⟩
  rw [frameOf_eq_body, List.prefix_concat_iff] at hp
  obtain rfl | hp := hp
  · exact ⟨by simp [hready, Config.lf], by simp [hdone, Config.lf], fun _ => ⟨(frameOf_eq_body cmd).symm, by simpa using hlf⟩⟩
  · exact ⟨fun hb => hready (hp.subset hb), fun hb => hdone (hp.subset hb), fun hb => absurd (hp.subset hb) hlf⟩

/-! ### The TX stream of an exchange -/

/-- R232: from the history `h` to `k` a part of the frame of this command has been sent, and nothing else. -/
def SendsFramePart (cmd : Bytes) (h k : List Event) : Prop :=
  ∃ sent, txStream k = txStream h ++ sent ∧ FramePart cmd sent

theorem sendsFramePart_of_silent (hk : txStream k = txStream h) : SendsFramePart cmd h k :=
  ⟨[], by simp [hk], framePart_nil cmd⟩

theorem sendsFramePart_of_write {n : Nat} (hv : validPayload cmd)
    (hk : txStream k = txStream h ++ (frameOf cmd).take n) : SendsFramePart cmd h k :=
  ⟨_, hk, framePart_of_prefix hv (List.take_prefix _ _)⟩

/-- R166: reads and matcher calls send nothing. -/
theorem txStream_of_drainEvents {evs : List Event} (hevs : ∀ e ∈ evs, isDrainEvent e) : txStream evs = [] := by
  refine List.flatMap_eq_nil_iff.mpr fun e he => ?_
  obtain ⟨a, rfl⟩ | ⟨p, v, rfl⟩ := hevs e he <;> rfl

theorem Drained.txStream_eq {hist : List Event} (hd : Drained h cmd hist) :
    txStream hist = txStream h ++ (frameOf cmd).take (frameOf cmd).length := by
  obtain ⟨evs, rfl, hevs⟩ := hd
  rw [txStream_append, txStream_write, txStream_of_drainEvents hevs, List.append_nil]

theorem FailedWith.txStream_eq {kind : Kind} {hist : List Event} (hf : FailedWith h cmd kind hist) :
    ∃ n, txStream hist = txStream h ++ (frameOf cmd).take n := by
  cases hf with
  | encode => exact ⟨0, by simp⟩
  | write n => exact ⟨n, by simp⟩
  | drain _ _ _ hd => exact ⟨_, hd.txStream_eq⟩

/-- R153, R166: whatever its state of SEQ, an exchange has made at most the one write of its command frame. -/
theorem Exchanging.txStream_eq (hx : Exchanging h cmd s) :
    ∃ n, txStream s.hist = txStream h ++ (frameOf cmd).take n := by
  cases hx with
  | encoding _ _ _ hh | sending _ _ _ hh => exact ⟨0, by simp [hh]⟩
  | drains _ _ hd | succeeded _ _ hd => exact ⟨_, hd.txStream_eq⟩
  | raised _ _ hf => exact hf.txStream_eq
  | failed hist _ hf hh =>
    obtain ⟨n, hn⟩ := hf.txStream_eq
    exact ⟨n, by simp [hh, hn]⟩

theorem exec_exchange_sends {i : Instr} {shape : Shape} {gen : Bool} (hi : isExchange i shape gen cmd)
    (hb : s.busy = false) (hexec : exec i s = .next t) : SendsFramePart cmd s.hist t.hist := by
  by_cases hv : validPayload cmd
  · obtain ⟨n, hn⟩ := (exec_exchange_ends hi hb hexec).1.txStream_eq
    exact sendsFramePart_of_write hv hn
  · obtain ⟨c, hflush⟩ := unencodableCommandOnlyFlushes s i shape gen cmd hi hb hv
    obtain rfl := Host.Outcome.next.inj (hflush.symm.trans hexec)
    exact sendsFramePart_of_silent (by simp)

/-! ### The rows that send nothing -/

theorem txStream_encRow (s : State) : txStream (encRow s).hist = txStream s.hist := by
  by_cases hv : validPayload s.opd
  · rw [encRow_of_valid hv]
  · rw [encRow_of_invalid hv, raise_hist]

theorem txStream_readRow_exec (hs : s.seq = .exec) (hrow : readRow s = .next t) :
    txStream t.hist = txStream s.hist := by
  obtain ⟨buf, rx, as, rfl | ⟨k, -, rfl⟩ | ⟨unit, rfl⟩⟩ := readRow_exec_cases hs hrow <;> simp

theorem txStream_readRow_exchange (hs : s.seq = .waitReady ∨ s.seq = .read) (hrow : readRow s = .next t) :
    txStream t.hist = txStream s.hist := by
  obtain ⟨u, evs, hreads, hu⟩ := readRow_afterReads hs hrow
  rw [← hreads.seq] at hs
  have hsame : txStream u.hist = txStream s.hist := by
    rw [hreads.hist, txStream_append, txStream_of_drainEvents hreads.drain, List.append_nil]
  obtain ⟨rfl, -⟩ | ⟨k, -, rfl⟩ | ⟨unit, left, -, hm⟩ := hu
  · exact hsame
  · exact hsame
  · obtain rfl | ⟨-, rfl⟩ | ⟨-, rfl⟩ | ⟨l, -, -, rfl⟩ := unitMeaning_exchange hs hm <;> exact hsame

theorem txStream_decRow (hs : s.seq = .dec) (hrow : decRow s = .next t) : txStream t.hist = txStream s.hist := by
  by_cases hf : ∃ p, decodeFrame s.params.hexLowerOk s.line = .ok p
  · obtain ⟨p, hp⟩ := hf
    rw [decRow_of_frame hp] at hrow
    cases hg : s.gen with
    | true =>
      obtain rfl := Host.Outcome.next.inj ((exec_frame_with_matcher p hs hg).symm.trans hrow)
      rfl
    | false =>
      obtain rfl := Host.Outcome.next.inj ((exec_frame_without_matcher p hs hg).symm.trans hrow)
      rfl
  · obtain ⟨c, n, hno⟩ := decRow_of_no_frame (fun p hp => hf ⟨p, hp⟩)
    obtain rfl := Host.Outcome.next.inj (hno.symm.trans hrow)
    rfl

theorem txStream_matchRow (s : State) : txStream (matchRow s).hist = txStream s.hist := by
  cases hv : verdictOf s.gsel s.pay with
  | hit r => simp [matchRow_of_hit hv]
  | miss => simp [matchRow_of_miss hv]

theorem txStream_yieldRow (s : State) : txStream (yieldRow s).hist = txStream s.hist := by
  cases hsh : s.shape with
  | zero => rw [yieldRow_of_zero hsh, raise_hist]
  | one =>
    by_cases hn : s.itemcnt = 1
    · rw [yieldRow_of_second hsh hn, raise_hist]
    · rw [yieldRow_of_first hsh hn]
  | many => rw [yieldRow_of_many hsh]

/-- R30: the row EXEC of any operation but WRITE_UNIT. -/
theorem txStream_execRow (hs : s.seq = .exec) (hop : s.sop ≠ .writeUnit) (hrow : execRow s = .next t) :
    txStream t.hist = txStream s.hist := by
  have hframe := standaloneFrame_execRow hs hrow
  cases hq : s.sop with
  | encode => rw [(hframe.silent (.inl hq)).1]
  | decode => rw [(hframe.silent (.inr hq)).1]
  | readUnit => exact txStream_readRow_exec hs ((execRow_readUnit hq).symm.trans hrow)
  | writeUnit => exact absurd hq hop

theorem exec_standalone_silent {i : Instr} {op : Standalone} {opd : Bytes} (hi : isStandalone i op opd)
    (hop : op ≠ .writeUnit) (hb : s.busy = false) (hexec : exec i s = .next t) : txStream t.hist = txStream s.hist :=
  txStream_execRow (s := acceptStandalone op opd s) rfl hop ((exec_standalone_eq_execRow hi hb).symm.trans hexec)

/-- R165, R30: every row but TX and the WRITE_UNIT of EXEC. -/
theorem txStream_seqRow (htx : s.seq ≠ .tx) (hwrite : ¬ (s.seq = .exec ∧ s.sop = .writeUnit))
    (hrow : seqRow s = .next t) : txStream t.hist = txStream s.hist := by
  cases hs : s.seq with
  | tx => exact absurd hs htx
  | exec => exact txStream_execRow hs (fun hop => hwrite ⟨hs, hop⟩) ((seqRow_exec hs).symm.trans hrow)
  | dec => exact txStream_decRow hs ((seqRow_dec hs).symm.trans hrow)
  | waitReady => exact txStream_readRow_exchange (.inl hs) (by simpa [seqRow, hs] using hrow)
  | read => exact txStream_readRow_exchange (.inr hs) (by simpa [seqRow, hs] using hrow)
  | idle =>
    obtain rfl : s = t := by simpa [seqRow, hs] using hrow
    rfl
  | enc =>
    obtain rfl := Host.Outcome.next.inj ((seqRow_enc hs).symm.trans hrow)
    exact txStream_encRow s
  | matchRec =>
    obtain rfl := Host.Outcome.next.inj ((seqRow_matchRec hs).symm.trans hrow)
    exact txStream_matchRow s
  | yield =>
    obtain rfl := Host.Outcome.next.inj ((seqRow_yield hs).symm.trans hrow)
    exact txStream_yieldRow s
  | flush =>
    obtain rfl : errorExit s.raised s = t := by simpa [seqRow, hs] using hrow
    simp

/-! ### The row TX -/

theorem txStream_txRow (s : State) : ∃ n, txStream (txRow s).hist = txStream s.hist ++ s.frm.take n := by
  obtain ⟨ht, -⟩ | ⟨k, ks, ht, -⟩ := transportWrite_cases s.frm s
  · exact ⟨0, by simp [txRow_of_no_answer ht]⟩
  by_cases hk : s.frm.length ≤ k
  · exact ⟨s.frm.length, by simp [txRow_of_all ht hk]⟩
  · exact ⟨k, by simp [txRow_of_short ht (not_le.mp hk)]⟩

/-- R153: in TX the frame kept is the frame of the command. -/
theorem txRow_sends (hf : encodePayload s.opd = some s.frm) : SendsFramePart s.opd s.hist (txRow s).hist := by
  obtain ⟨hmin, hmax, hprint, hfrm⟩ := (encodePayload_eq_some_iff _ _).mp hf
  obtain ⟨n, hn⟩ := txStream_txRow s
  exact sendsFramePart_of_write ⟨hmin, hmax, hprint⟩ (hfrm ▸ hn)

/-- Settles O43: an exchange makes at most the one write of its frame; every row but TX and WRITE_UNIT is silent. -/
theorem exchangeSendsOnlyItsFrame : Obligations.ExchangeSendsOnlyItsFrame := by
  refine ⟨fun s t i hb hexec => ⟨fun shape gen cmd hi => exec_exchange_sends hi hb hexec, ?_⟩, fun s t hb hstep => ?_⟩
  · rintro p (rfl | rfl | rfl)
    · exact exec_standalone_silent (.inl ⟨rfl, rfl⟩) (by decide) hb hexec
    · exact exec_standalone_silent (.inr (.inl ⟨rfl, rfl⟩)) (by decide) hb hexec
    · exact exec_standalone_silent (.inr (.inr (.inl ⟨rfl, rfl, rfl⟩))) (by decide) hb hexec
  · rw [step_of_busy hb] at hstep
    refine ⟨fun htx hwrite => txStream_seqRow htx hwrite hstep, fun hs hf => ?_⟩
    obtain rfl := Host.Outcome.next.inj ((seqRow_tx hs).symm.trans hstep)
    exact txRow_sends hf

end Sys2Proof.Machine
end

section
/-! PROOFS. Reset: the registers it sets, the transport it leaves alone, and the invariant it establishes. -/

namespace Sys2Proof.Machine

/-- R42, R220: a block that has just been reset is as another reset would leave it. -/
theorem applyReset_reset : State.reset.applyReset = State.reset :=
  rfl

variable (s : State)

@[simp] theorem applyReset_len : s.applyReset.len = 0#7 := rfl
@[simp] theorem applyReset_itemcnt : s.applyReset.itemcnt = 0 := rfl
@[simp] theorem applyReset_shape : s.applyReset.shape = .zero := rfl
@[simp] theorem applyReset_gen : s.applyReset.gen = false := rfl
@[simp] theorem applyReset_seq : s.applyReset.seq = .idle := rfl
@[simp] theorem applyReset_rxbuf : s.applyReset.rxbuf = [] := rfl
@[simp] theorem applyReset_opd : s.applyReset.opd = [] := rfl
@[simp] theorem applyReset_res : s.applyReset.res = [] := rfl
@[simp] theorem applyReset_items : s.applyReset.items = [] := rfl
@[simp] theorem applyReset_errtext : s.applyReset.errtext = [] := rfl
@[simp] theorem applyReset_busy : s.applyReset.busy = false := rfl
@[simp] theorem applyReset_doneF : s.applyReset.doneF = false := rfl
@[simp] theorem applyReset_err : s.applyReset.err = false := rfl
@[simp] theorem applyReset_resultPresent : s.applyReset.resultPresent = false := rfl
@[simp] theorem applyReset_ukind : s.applyReset.ukind = false := rfl
@[simp] theorem applyReset_kind : s.applyReset.kind = .ok := rfl
@[simp] theorem applyReset_params : s.applyReset.params = s.params := rfl
@[simp] theorem applyReset_host : s.applyReset.host = s.host := rfl
@[simp] theorem applyReset_rx : s.applyReset.rx = s.rx := rfl
@[simp] theorem applyReset_rxNext : s.applyReset.rxNext = s.rxNext := rfl
@[simp] theorem applyReset_tx : s.applyReset.tx = s.tx := rfl
@[simp] theorem applyReset_hist : s.applyReset.hist = [] := rfl

/-- R63: an empty RXBUF is within every capacity. -/
theorem rxbufFits_zero (params : Params) : rxbufFits params 0 = true := by
  cases hd : params.rxbufDepth <;> simp [rxbufFits, hd]

/-- R42, R220: reset, whatever the parameters of the build and whatever was there. -/
theorem applyReset_inv : s.applyReset.Inv where
  busySeq := by simp
  errKind := by simp
  running := by simp
  failed := by simp
  succeeded := by simp
  count := by simp
  shapeCount := by simp
  genShape := by simp
  lenBound := by simp
  itemsOk := by simp
  raisedOk := by simp
  frmOk := by simp
  lineKept := by simp [keepsLine]
  matchKept := by simp
  yieldKept := by simp
  rxDepth := by simp [rxbufFits_zero]
  errDepth := by simp
  history := by simp

/-- Settles O1: State.reset is a reset block too, and reset sets each register. -/
theorem resetPutsEveryRegisterAtItsValue : Obligations.ResetPutsEveryRegisterAtItsValue := by
  rintro s t (rfl | rfl)
  · simp
  · rw [← applyReset_reset]
    simp

/-- Settles O2: the scripts, the host's list and the parameters are carried over, the history starts empty. -/
theorem resetTouchesNoTransport : Obligations.ResetTouchesNoTransport := by
  intro s
  simp

/-- Settles O50: State.reset is a reset block too. -/
theorem resetSatisfiesTheInvariant : Obligations.ResetSatisfiesTheInvariant :=
  ⟨applyReset_inv State.reset, applyReset_inv⟩

end Sys2Proof.Machine
end
